-- ==== Sys2Proof/Word.lean ====
section
/-! DEFINITION. The word widths of the UDPFT-HCC (`00_scope.md` R4, R5, R8; `30_encoding.md` R60, R77).
All values are unsigned (R8). -/

namespace Sys2Proof

/-- A byte of the packet buffer, the flags byte, the reserved byte, a command code. -/
abbrev Byte := BitVec 8

/-- A 16-bit value: the checksum field, `CSUM`, `CALC`. -/
abbrev Half := BitVec 16

/-- A 32-bit value: the sequence number and the register port's data. -/
abbrev Word := BitVec 32

/-- A buffer offset, `buf_addr` (`20_memory.md` R40). -/
abbrev Offset := BitVec 10

/-- A register number, `reg_sel` (`30_encoding.md` R76). -/
abbrev RegNum := BitVec 4

end Sys2Proof
end

