-- ==== Sys2Proof/Config.lean ====
section
/-! DEFINITION. The parameters of the UDPFT-HCC (`00_scope.md` R4 to R6) and its free values. -/

namespace Sys2Proof

/-- `HDR_LEN` (R4): the header is 8 bytes. -/
@[simp] abbrev Config.hdrLen : Nat := 8

/-- `MAX_DATAGRAM` (R4) and `BUF_SIZE` (R5): the buffer holds one datagram of at most 1024 bytes. -/
@[simp] abbrev Config.bufSize : Nat := 1024

/-- `MAX_PAYLOAD` (R4): 1024 − 8. -/
@[simp] abbrev Config.maxPayload : Nat := 1016

/-- `STRICT_RESERVED` (R6, D25): whether a header with a nonzero must-be-zero bit matches no packet kind.
OPEN in the spec, so it has no body: whatever is proved holds for both settings (log entry 3). -/
opaque Config.strictReserved : Bool

/-- The two treatments of a read of an unwritten buffer byte (`UNWRITTEN`, R6; `10_state.md` R24). -/
inductive Unwritten where
  /-- the reading operation is refused -/
  | refuse
  /-- the byte is a free value and the operation runs -/
  | draw
deriving DecidableEq, Repr

/-- DESIGN CHOICE (log entry 2): the setting under which `exec` and `step` run; `execUnder` and `stepUnder` take the
setting as an argument. An unspecified value is a free value, and the operation that reads it runs. -/
abbrev Config.unwritten : Unwritten := .draw

/-- The free values of unwritten buffer bytes: `freeByte n a` is what a read of offset `a` finds in the `n`-th reading
operation (`10_state.md` R24: "two reads of the same unwritten byte may differ"). No body: nothing can evaluate it. -/
opaque Config.freeByte : Nat → Nat → Byte

end Sys2Proof
end

