-- ==== Sys2Proof/Syntax.lean ====
section
/-! DEFINITION. The operations of the UDPFT-HCC as syntax: one constructor per instruction of `spec/opcode_table.json`
(the seven BADCMD rows are one instruction, log entry 10), and the bit patterns they are decoded from. -/

namespace Sys2Proof

/-- The instructions, in the table's order. -/
inductive Instr where
  /-- `ENCODE`, CMD8 code 0x01 (`40_codec.md` R92). -/
  | encode
  /-- `DECODE`, CMD8 code 0x02 (`40_codec.md` R93). -/
  | decode
  /-- `CHECKSUM`, CMD8 code 0x03 (`41_checksum.md` R107). -/
  | checksum
  /-- `SETCSUM`, CMD8 code 0x04 (`41_checksum.md` R108). -/
  | setcsum
  /-- `VERIFY`, CMD8 code 0x05 (`41_checksum.md` R109). -/
  | verify
  /-- `BADCMD`, CMD8 codes 0x00 and 0x06 to 0xFF (`42_host_access.md` R125). -/
  | badcmd (code : Byte)
  /-- `WBUF(a, d)` (R120). -/
  | wbuf (a : Offset) (d : Byte)
  /-- `RBUF(a)` (R121). -/
  | rbuf (a : Offset)
  /-- `WREG(r, v)` (R122, R124). -/
  | wreg (r : RegNum) (v : Word)
  /-- `RREG(r)` (R123). -/
  | rreg (r : RegNum)
  /-- `CONNECT_REQ`, flag set {SYN} (`30_encoding.md` R70). `mbz` is the 13 must-be-zero bits 12:0 of the header word:
  zero when `STRICT_RESERVED` is true, free when it is false (R71). -/
  | connectReq (seq : Word) (csum : Half) (mbz : BitVec 13)
  /-- `CONNECT_ACK`, flag set {SYN, ACK}. -/
  | connectAck (seq : Word) (csum : Half) (mbz : BitVec 13)
  /-- `FILE_REQ`, flag set {REQ}. -/
  | fileReq (seq : Word) (csum : Half) (mbz : BitVec 13)
  /-- `REQ_ACK`, flag set {ACK, REQ}. -/
  | reqAck (seq : Word) (csum : Half) (mbz : BitVec 13)
  /-- `DATA`, the empty flag set. -/
  | data (seq : Word) (csum : Half) (mbz : BitVec 13)
  /-- `DATA_ACK`, flag set {ACK}. -/
  | dataAck (seq : Word) (csum : Half) (mbz : BitVec 13)
  /-- The undefined flag set {SYN, REQ} (R72). -/
  | undefinedSynReq (seq : Word) (csum : Half) (mbz : BitVec 13)
  /-- The undefined flag set {SYN, ACK, REQ} (R72). -/
  | undefinedSynAckReq (seq : Word) (csum : Half) (mbz : BitVec 13)
deriving DecidableEq, Repr

/-- One transaction as bits: how many bits its format has and their value as one number, bit 0 the least significant
(`30_encoding.md` R77). Formats: CMD8 8 bits, BUFPORT20 20, REGPORT38 38, HDR64 64. -/
structure PortWord where
  width : Nat
  bits : Nat
deriving DecidableEq, Repr

/-- Why a bit pattern is no operation. -/
inductive DecodeError where
  /-- Neither strobe: no operation in this cycle (`30_encoding.md` R77, pattern `00...`). -/
  | noOperation
  /-- Both strobes, which the host must not drive (R77, pattern `11...`). -/
  | bothStrobes
  /-- A header word that matches no HDR64 row: `STRICT_RESERVED` is true and a must-be-zero bit is set (R71). -/
  | undefinedHeader
  /-- The pattern has no format of that many bits, or a bit above the format's width is set. -/
  | noSuchFormat
deriving DecidableEq, Repr

end Sys2Proof
end

