-- ==== Sys2Proof/WellFormed.lean ====
section
/-! DEFINITION. Which instructions the table admits. -/

namespace Sys2Proof

/-- The reserved command codes: 0x00 and 0x06 to 0xFF (`30_encoding.md` R75). -/
def reservedCode (c : Byte) : Bool := decide (c.toNat = 0 ∨ 6 ≤ c.toNat)

/-- The must-be-zero bits a header row admits: all zero when `STRICT_RESERVED` is true (mask 0xFFFF), any value when it
is false (mask 0xE000) (`30_encoding.md` R71 and the table's notes). -/
def admittedMbz (mbz : BitVec 13) : Bool := decide (mbz = 0) || !Config.strictReserved

/-- The well-formed instructions. -/
def Instr.wf : Instr → Bool
  | .encode | .decode | .checksum | .setcsum | .verify => true
  | .badcmd code => reservedCode code
  | .wbuf _ _ | .rbuf _ | .wreg _ _ | .rreg _ => true
  | .connectReq _ _ mbz => admittedMbz mbz
  | .connectAck _ _ mbz => admittedMbz mbz
  | .fileReq _ _ mbz => admittedMbz mbz
  | .reqAck _ _ mbz => admittedMbz mbz
  | .data _ _ mbz => admittedMbz mbz
  | .dataAck _ _ mbz => admittedMbz mbz
  | .undefinedSynReq _ _ mbz => admittedMbz mbz
  | .undefinedSynAckReq _ _ mbz => admittedMbz mbz

end Sys2Proof
end

