-- ==== Sys2Proof/Decode.lean ====
section
/-! DEFINITION. Decoding of the four formats of `30_encoding.md` (R60, R73, R77), total on any bit pattern, and the
encoder written from the same tables. -/

namespace Sys2Proof

/-- CMD8: all 8 bits select the command (R73 to R75). -/
def decodeCmd8 (c : Byte) : Instr :=
  match c.toNat with
  | 0x01 => .encode
  | 0x02 => .decode
  | 0x03 => .checksum
  | 0x04 => .setcsum
  | 0x05 => .verify
  | _ => .badcmd c

/-- BUFPORT20: `buf_we`, `buf_re`, `buf_addr[9:0]`, `buf_wdata[7:0]` (R77). The data lines are ignored on a read. -/
def decodeBufPort (w : BitVec 20) : Except DecodeError Instr :=
  match (w.extractLsb' 18 2).toNat with
  | 0 => .error .noOperation
  | 1 => .ok (.rbuf (w.extractLsb' 8 10))
  | 2 => .ok (.wbuf (w.extractLsb' 8 10) (w.extractLsb' 0 8))
  | _ => .error .bothStrobes

/-- REGPORT38: `reg_we`, `reg_re`, `reg_sel[3:0]`, `reg_wdata[31:0]` (R77). The data lines are ignored on a read. -/
def decodeRegPort (w : BitVec 38) : Except DecodeError Instr :=
  match (w.extractLsb' 36 2).toNat with
  | 0 => .error .noOperation
  | 1 => .ok (.rreg (w.extractLsb' 32 4))
  | 2 => .ok (.wreg (w.extractLsb' 32 4) (w.extractLsb' 0 32))
  | _ => .error .bothStrobes

/-- HDR64: bits 63:32 the sequence number, 31:16 the checksum, 15:13 the flags SYN, ACK, REQ, 12:0 must be zero (R60);
the row is the exact flag set (R70 to R72). A header with a must-be-zero bit set matches a row only when
`STRICT_RESERVED` is false (R71). -/
def decodeHdr64 (h : BitVec 64) : Except DecodeError Instr :=
  let seq := h.extractLsb' 32 32
  let csum := h.extractLsb' 16 16
  let mbz := h.extractLsb' 0 13
  if admittedMbz mbz then
    match (h.extractLsb' 13 3).toNat with
    | 0 => .ok (.data seq csum mbz)
    | 1 => .ok (.fileReq seq csum mbz)
    | 2 => .ok (.dataAck seq csum mbz)
    | 3 => .ok (.reqAck seq csum mbz)
    | 4 => .ok (.connectReq seq csum mbz)
    | 5 => .ok (.undefinedSynReq seq csum mbz)
    | 6 => .ok (.connectAck seq csum mbz)
    | _ => .ok (.undefinedSynAckReq seq csum mbz)
  else .error .undefinedHeader

/-- How many bits the format of a pattern of `width` bits has. A 20- or 38-bit pattern may also come in whole bytes
(24 or 40 bits) with the bits above the format zero (log entry 8). -/
def formatBits (width : Nat) : Nat :=
  match width with
  | 8 => 8
  | 20 | 24 => 20
  | 38 | 40 => 38
  | 64 => 64
  | _ => 0

/-- The instruction of a bit pattern, or the name of the reason why it is none. -/
def decode (w : PortWord) : Except DecodeError Instr :=
  if w.bits < 2 ^ formatBits w.width then
    match formatBits w.width with
    | 8 => .ok (decodeCmd8 (BitVec.ofNat 8 w.bits))
    | 20 => decodeBufPort (BitVec.ofNat 20 w.bits)
    | 38 => decodeRegPort (BitVec.ofNat 38 w.bits)
    | 64 => decodeHdr64 (BitVec.ofNat 64 w.bits)
    | _ => .error .noSuchFormat
  else .error .noSuchFormat

/-- The header word of a flag set (`30_encoding.md` R60): sequence number, checksum, SYN ACK REQ, must-be-zero bits. -/
def headerWord (seq : Word) (csum : Half) (flagSet : BitVec 3) (mbz : BitVec 13) : BitVec 64 :=
  seq ++ csum ++ flagSet ++ mbz

/-- A pattern of `n` bits. -/
def PortWord.of {n : Nat} (w : BitVec n) : PortWord := ⟨n, w.toNat⟩

/-- The pattern of an instruction (R60, R74, R77). The lines a read ignores are driven zero. -/
def encode : Instr → PortWord
  | .encode => .of 0x01#8
  | .decode => .of 0x02#8
  | .checksum => .of 0x03#8
  | .setcsum => .of 0x04#8
  | .verify => .of 0x05#8
  | .badcmd code => .of code
  | .wbuf a d => .of (0b10#2 ++ a ++ d)
  | .rbuf a => .of (0b01#2 ++ a ++ 0#8)
  | .wreg r v => .of (0b10#2 ++ r ++ v)
  | .rreg r => .of (0b01#2 ++ r ++ 0#32)
  | .connectReq seq csum mbz => .of (headerWord seq csum 0b100#3 mbz)
  | .connectAck seq csum mbz => .of (headerWord seq csum 0b110#3 mbz)
  | .fileReq seq csum mbz => .of (headerWord seq csum 0b001#3 mbz)
  | .reqAck seq csum mbz => .of (headerWord seq csum 0b011#3 mbz)
  | .data seq csum mbz => .of (headerWord seq csum 0b000#3 mbz)
  | .dataAck seq csum mbz => .of (headerWord seq csum 0b010#3 mbz)
  | .undefinedSynReq seq csum mbz => .of (headerWord seq csum 0b101#3 mbz)
  | .undefinedSynAckReq seq csum mbz => .of (headerWord seq csum 0b111#3 mbz)

/-- The instruction of an opcode-table word of `nbits` bits whose value is `w`. -/
def decodeTableWord (nbits w : Nat) : Option Instr := (decode ⟨nbits, w⟩).toOption

end Sys2Proof
end

