-- ==== Sys2Proof/Machine/State.lean ====
section
/-! DEFINITION. The state of the UDPFT-HCC as plain data (`10_state.md`), its reset value (R33), and the reasons a step
can stop. -/

namespace Sys2Proof.Machine

/-- The packet buffer `BUF` (`10_state.md` R22): the written bytes, by offset, offsets strictly rising. The written mark
`W[a]` (R23) is whether `a` is listed. An unlisted offset holds no value (R24). -/
abbrev Memory := List Host.Cell

/-- The status codes of `STATUS.CODE` (`60_exceptions.md` R130). -/
inductive StatusCode where
  | ok
  | checksumMismatch
  | malformedHeader
  | lenError
  | badCmd
deriving DecidableEq, Repr

/-- One input of the block (`20_memory.md` R51, R52): a port transaction, or a clock edge with `rst` high
(`70_reset_and_hazards.md` R150). -/
inductive HostInput where
  | rst
  | txn (w : PortWord)
deriving DecidableEq, Repr

/-- The machine's state. -/
structure State where
  /-- `SEQ`, register 0 (R11). -/
  seq : Word
  /-- `CSUM`, register 1 (R12). -/
  csum : Half
  /-- `FLAGS`, register 2 (R13). -/
  flags : Byte
  /-- `RSVD`, register 3 (R14). -/
  rsvd : Byte
  /-- `LEN`, register 4 (R15). -/
  len : BitVec 11
  /-- `STATUS.BUSY`, register 6 bit 7 (R17), and the `busy` pin. -/
  busy : Bool
  /-- `STATUS.CODE`, register 6 bits 2:0 (R17). -/
  code : StatusCode
  /-- `CALC`, register 7 (R18). -/
  calcReg : Half
  /-- `BUF` with its written marks (R22, R23). -/
  buf : Memory
  /-- `reg_rdata`: the result of the last `RREG` (R51, R123). -/
  regRdata : Word
  /-- `buf_rdata`: the result of the last `RBUF` (R51, R121). -/
  bufRdata : Byte
  /-- The host's inputs still to come, the next one first (R30; log entry 5). -/
  inputs : List HostInput
  /-- The model's own counter of reading operations: it selects fresh free values (log entry 2). -/
  draws : Nat
deriving DecidableEq, Repr

/-- The state right after reset (R33): all registers zero, no byte written, not busy, `OK`. The read results
(log entry 4) and the counter (log entry 2) are DESIGN CHOICE 0; no input is pending (log entry 5). -/
def State.reset : State where
  seq := 0
  csum := 0
  flags := 0
  rsvd := 0
  len := 0
  busy := false
  code := .ok
  calcReg := 0
  buf := []
  regRdata := 0
  bufRdata := 0
  inputs := []
  draws := 0

/-- Reasons to stop with a fault. There are none: the block has no trap, and its five status codes are ordinary results
(`60_exceptions.md` R137). Nothing raises a fault; safe. -/
inductive Fault : Type
deriving DecidableEq, Repr

/-- Reasons why a step has no meaning. -/
inductive Refusal where
  /-- An instruction without a meaning, raised by an arm of `exec`; no arm raises it now. Safe. -/
  | notModelled (mnemonic : String)
  /-- A port operation other than a read of `STATUS` while `BUSY = 1`, whose effect the spec leaves unspecified
  (`70_reset_and_hazards.md` R156, U9). Raised by every meaning in a busy state. Safe. -/
  | portWhileBusy
  /-- A read of an unwritten byte under `UNWRITTEN = refuse` (`10_state.md` R24). Raised by the buffer-reading meanings
  under that setting (`execUnder .refuse`) only; `exec` runs under `draw`. Safe. -/
  | unwrittenByte
  /-- The next transaction is no operation (`30_encoding.md` R77: both strobes; or no format fits). Raised by `step`.
  Safe. -/
  | notAnOperation (reason : DecodeError)
deriving DecidableEq, Repr

/-- What an operation answers. -/
abbrev Result := Host.Outcome State Fault Refusal

end Sys2Proof.Machine
end

