-- ==== Sys2Proof/Machine/Ops.lean ====
section
/-! DEFINITION. The named operations over the buffer and the status that the meanings share: the primitives of
`00_scope.md` R9, the end of a command, reset, and the guards of port access and of reads. -/

namespace Sys2Proof.Machine

/-- The byte written at an offset, if any. -/
def Memory.read : Memory → Nat → Option Byte
  | [], _ => none
  | (k, b) :: m, a => if k = a then some b else Memory.read m a

/-- `BUF[a] <- d` and `W[a] <- true`, keeping the list sorted (`10_state.md` R23). -/
def Memory.write : Memory → Nat → Byte → Memory
  | [], a, d => [(a, d)]
  | (k, b) :: m, a, d =>
    if a < k then (a, d) :: (k, b) :: m
    else if a = k then (a, d) :: m
    else (k, b) :: Memory.write m a d

/-- The canonical form of a buffer: offsets strictly rising and inside the buffer. An unlisted offset reads as no value,
so no entry can equal it. -/
abbrev Memory.wf (m : Memory) : Prop :=
  m.Pairwise (fun x y => x.1 < y.1) ∧ ∀ c ∈ m, c.1 < Config.bufSize

/-- `MemWrite(a, n, v)` on a buffer: `BUF[a+k] <- (v >> 8(n−1−k)) & 0xFF`, big-endian (`00_scope.md` R9). -/
def Memory.writeBE : Memory → Nat → Nat → Nat → Memory
  | m, _, 0, _ => m
  | m, a, n + 1, v => Memory.writeBE (Memory.write m a (BitVec.ofNat 8 (v >>> (8 * n)))) (a + 1) n v

/-- The written mark `W[a]` (`10_state.md` R23). -/
def State.written (s : State) (a : Nat) : Bool := (Memory.read s.buf a).isSome

/-- `BUF[a]` in the `draws`-th reading operation: the byte written there, a free value where nothing has been written
(`10_state.md` R24). -/
def Memory.byteAt (m : Memory) (draws a : Nat) : Byte :=
  match Memory.read m a with
  | some b => b
  | none => Config.freeByte draws a

/-- The `n` bytes from offset `a` on, in offset order. -/
def Memory.bytes (m : Memory) (draws a : Nat) : Nat → List Byte
  | 0 => []
  | n + 1 => Memory.byteAt m draws a :: Memory.bytes m draws (a + 1) n

/-- `BUF[a]` as the next reading operation finds it. -/
def State.byteAt (s : State) (a : Nat) : Byte := Memory.byteAt s.buf s.draws a

/-- The `n` bytes from offset `a` on as the next reading operation finds them. -/
def State.bytes (s : State) (a n : Nat) : List Byte := Memory.bytes s.buf s.draws a n

/-- The packet in the buffer, `BUF[0 .. LEN−1]` (`10_state.md` R15). -/
def State.packet (s : State) : List Byte := s.bytes 0 s.len.toNat

/-- A byte sequence as one big-endian unsigned integer (`00_scope.md` R8). -/
def beNat (bs : List Byte) : Nat := bs.foldl (fun acc b => (acc <<< 8) + b.toNat) 0

/-- `MemRead(a, n)`: `n` bytes as one big-endian unsigned integer (R9). -/
def State.memRead (s : State) (a n : Nat) : Nat := beNat (s.bytes a n)

/-- `MemWrite(a, n, v)` (R9). -/
def State.memWrite (s : State) (a n v : Nat) : State := { s with buf := Memory.writeBE s.buf a n v }

/-- `BUF[a] <- d`, `W[a] <- true` (`42_host_access.md` R120). -/
def State.writeByte (s : State) (a : Nat) (d : Byte) : State := { s with buf := Memory.write s.buf a d }

/-- The end of an operation that reads the buffer: the next one draws new free values (log entry 2). -/
def State.drawn (s : State) : State := { s with draws := s.draws + 1 }

/-- The start of a command: `STATUS.BUSY <- 1` (`42_host_access.md` R124). -/
def State.start (s : State) : State := { s with busy := true }

/-- `raise <Status>`: `STATUS.CODE <- <Status>`, `STATUS.BUSY <- 0`, nothing else (R9, `60_exceptions.md` R137). It is
the block's only form of an exception, and there is nothing to return from (R140). -/
def State.raise (s : State) (c : StatusCode) : State := { s with code := c, busy := false }

/-- `done`: `STATUS.CODE <- OK`, `STATUS.BUSY <- 0` (R9). -/
def State.done (s : State) : State := { s with code := .ok, busy := false }

/-- A clock edge with `rst` high (`70_reset_and_hazards.md` R150 to R152): the reset state, `BUF` unspecified again. The
inputs still to come are the host's and stay; the draw counter goes on, so no free value returns (log entry 11). -/
def State.takeReset (s : State) : State := { State.reset with inputs := s.inputs, draws := s.draws }

/-- A port operation happens only while `BUSY = 0`; otherwise it has no meaning (`70_reset_and_hazards.md` R156). -/
def State.whenIdle (s : State) (k : Result) : Result :=
  if s.busy then .refused .portWhileBusy else k

/-- The reading guard under a setting of `UNWRITTEN` (`10_state.md` R24): with `refuse` a read of an unwritten offset
has no meaning, with `draw` it goes on with free values. -/
def State.whenWrittenUnder (u : Unwritten) (s : State) (offsets : List Nat) (k : Result) : Result :=
  match u with
  | .draw => k
  | .refuse => if offsets.all s.written then k else .refused .unwrittenByte

/-- The length checks of the four commands that read `LEN`, in their order (`60_exceptions.md` R136): `LEN_ERROR`, then
`MALFORMED_HEADER`. -/
def State.whenLengthOk (s : State) (k : Result) : Result :=
  if s.len.toNat > Config.bufSize then .next (s.raise .lenError)
  else if s.len.toNat < Config.hdrLen then .next (s.raise .malformedHeader)
  else k

end Sys2Proof.Machine
end

