-- ==== Sys2Proof/Machine/Checksum.lean ====
section
/-! DEFINITION. The checksum family (`41_checksum.md`): the arithmetic, and the commands `CHECKSUM`, `SETCSUM` and
`VERIFY`. -/

namespace Sys2Proof.Machine

/-- `RawSum` (`41_checksum.md` R100): big-endian 16-bit words; a last unpaired byte is a high byte. -/
def rawSum : List Byte → Nat
  | [] => 0
  | [b] => b.toNat <<< 8
  | hi :: lo :: rest => ((hi.toNat <<< 8) + lo.toNat) + rawSum rest

/-- `Fold1` (R101): the overflow added back once and only once. -/
def fold1 (s : Nat) : Nat := (s >>> 16) + (s &&& 0xFFFF)

/-- `Zeroed` (R102): offsets 4 and 5 replaced by zero. The rule needs at least 6 bytes; on fewer, the offsets that are not
there are left out, DESIGN CHOICE (log entry 22). -/
def zeroed (b : List Byte) : List Byte := (b.set 4 0x00#8).set 5 0x00#8

/-- `Checksum` (R102): the complement of the folded sum under the mask 0xFFFF. The spec gives no value for fewer than 8
bytes; the value there is DESIGN CHOICE, and no command computes it (log entry 22). -/
def checksum (b : List Byte) : Half := ~~~ (BitVec.ofNat 16 (fold1 (rawSum (zeroed b))))

/-- `BE16(b, i)` (`00_scope.md` R8). A byte beyond the end counts as zero, DESIGN CHOICE (log entry 22). -/
def be16 (b : List Byte) (i : Nat) : Half := b.getD i 0 ++ b.getD (i + 1) 0

/-- `SetChecksum` (R105), for at least 8 bytes; its value on fewer is DESIGN CHOICE (log entry 22). -/
def setChecksum (b : List Byte) : List Byte :=
  let c := checksum (zeroed b)
  ((zeroed b).set 4 (c.extractLsb' 8 8)).set 5 (c.extractLsb' 0 8)

/-- `Verify` (R106), for at least 8 bytes; its value on fewer is DESIGN CHOICE (log entry 22). -/
def verify (b : List Byte) : Bool := decide (checksum b = be16 b 4)

/-- The offsets a checksum walk needs: all below `LEN` but the checksum field (R107 b). -/
def summedOffsets (s : State) : List Nat :=
  (List.range' 0 s.len.toNat).filter (fun a => a != 4 && a != 5)

/-- The body of `CHECKSUM` under a setting of `UNWRITTEN` (R107). -/
def checksumCommand (u : Unwritten) (s : State) : Result :=
  s.whenLengthOk (s.whenWrittenUnder u (summedOffsets s)
    (.next { s with calcReg := checksum s.packet }.drawn.done))

/-- `SETCSUM`'s stores: the field zeroed, the sum taken, the field, `CSUM` and `CALC` filled (R108). -/
def State.storeChecksum (s : State) : State :=
  let z := s.memWrite 4 2 0x0000
  let c := checksum z.packet
  { z.memWrite 4 2 c.toNat with csum := c, calcReg := c }

/-- The body of `SETCSUM` under a setting of `UNWRITTEN` (R108). -/
def setcsumCommand (u : Unwritten) (s : State) : Result :=
  s.whenLengthOk (s.whenWrittenUnder u (summedOffsets s) (.next s.storeChecksum.drawn.done))

/-- The body of `VERIFY` under a setting of `UNWRITTEN` (R109): `CALC` is written on a mismatch too; the stored value is the buffer's. -/
def verifyCommand (u : Unwritten) (s : State) : Result :=
  s.whenLengthOk (s.whenWrittenUnder u (List.range' 0 s.len.toNat)
    (let c := checksum s.packet
     let t := { s with calcReg := c }.drawn
     if c.toNat ≠ s.memRead 4 2 then .next (t.raise .checksumMismatch) else .next t.done))

/-- `CHECKSUM`, command code 0x03, under a setting of `UNWRITTEN`. -/
def execChecksumUnder (u : Unwritten) (s : State) : Result := s.whenIdle (checksumCommand u s.start)

/-- `CHECKSUM`. -/
def execChecksum (s : State) : Result := execChecksumUnder Config.unwritten s

/-- `SETCSUM`, command code 0x04, under a setting of `UNWRITTEN`. -/
def execSetcsumUnder (u : Unwritten) (s : State) : Result := s.whenIdle (setcsumCommand u s.start)

/-- `SETCSUM`. -/
def execSetcsum (s : State) : Result := execSetcsumUnder Config.unwritten s

/-- `VERIFY`, command code 0x05, under a setting of `UNWRITTEN`. -/
def execVerifyUnder (u : Unwritten) (s : State) : Result := s.whenIdle (verifyCommand u s.start)

/-- `VERIFY`. -/
def execVerify (s : State) : Result := execVerifyUnder Config.unwritten s

end Sys2Proof.Machine
end

