-- ==== Sys2Proof/Machine/Flags.lean ====
section
/-! DEFINITION. The flags byte, the packet kind and the status word as the host reads them. -/

namespace Sys2Proof.Machine

/-- `SYN`, bit 7 of the flags byte (`30_encoding.md` R63). -/
def synOf (flags : Byte) : Bool := flags.getLsbD 7

/-- `ACK`, bit 6 of the flags byte. -/
def ackOf (flags : Byte) : Bool := flags.getLsbD 6

/-- `REQ`, bit 5 of the flags byte. -/
def reqOf (flags : Byte) : Bool := flags.getLsbD 5

/-- `HeaderClean(flags, rsvd)`: `flags[4:0] = 0` and `rsvd = 0` (`30_encoding.md` R68). -/
def headerClean (flags rsvd : Byte) : Bool :=
  decide (flags.extractLsb' 0 5 = 0) && decide (rsvd = 0)

/-- `Kind(flags, rsvd)` (`30_encoding.md` R71). -/
def kind (flags rsvd : Byte) : BitVec 3 :=
  if !headerClean flags rsvd && Config.strictReserved then 0
  else
    match (flags &&& 0xE0#8).toNat with
    | 0x80 => 1
    | 0xC0 => 2
    | 0x20 => 3
    | 0x60 => 4
    | 0x00 => 5
    | 0x40 => 6
    | _ => 0

/-- The numeric status codes (`60_exceptions.md` R130). -/
def StatusCode.toBits : StatusCode → BitVec 3
  | .ok => 0
  | .checksumMismatch => 1
  | .malformedHeader => 2
  | .lenError => 3
  | .badCmd => 4

/-- `STATUS` as read: `BUSY` in bit 7, bits 6:3 zero, `CODE` in bits 2:0 (`10_state.md` R17). -/
def State.statusWord (s : State) : Byte := BitVec.ofBool s.busy ++ 0#4 ++ s.code.toBits

/-- `KIND` as read: computed from the present `FLAGS` and `RSVD` (`10_state.md` R19). -/
def State.kindNow (s : State) : BitVec 3 := kind s.flags s.rsvd

end Sys2Proof.Machine
end

