-- ==== Sys2Proof/Machine/Codec.lean ====
section
/-! DEFINITION. The codec family (`40_codec.md`): the pure functions `EncodeHeader` and `DecodeHeader`, and the commands
`ENCODE` and `DECODE`. -/

namespace Sys2Proof.Machine

/-- What `DecodeHeader` returns (`40_codec.md` R91). -/
structure HeaderFields where
  seq : Word
  csum : Half
  flags : Byte
  rsvd : Byte
deriving DecidableEq, Repr

/-- The flags byte an encoder makes of the three flags (`40_codec.md` R90): bits 4 to 0 zero. -/
def flagsByte (syn ack req : Bool) : Byte :=
  (if syn then 0x80#8 else 0) ||| (if ack then 0x40#8 else 0) ||| (if req then 0x20#8 else 0)

/-- `EncodeHeader` (`40_codec.md` R90). -/
def encodeHeader (seq : Word) (csum : Half) (syn ack req : Bool) : List Byte :=
  [seq.extractLsb' 24 8, seq.extractLsb' 16 8, seq.extractLsb' 8 8, seq.extractLsb' 0 8,
   csum.extractLsb' 8 8, csum.extractLsb' 0 8, flagsByte syn ack req, 0x00#8]

/-- `DecodeHeader` (`40_codec.md` R91); `none` is `MalformedHeader`. -/
def decodeHeader : List Byte → Option HeaderFields
  | b0 :: b1 :: b2 :: b3 :: b4 :: b5 :: b6 :: b7 :: _ =>
    some { seq := b0 ++ b1 ++ b2 ++ b3, csum := b4 ++ b5, flags := b6, rsvd := b7 }
  | _ => none

/-- The body of `ENCODE` (`40_codec.md` R92). -/
def encodeCommand (s : State) : Result :=
  .next ((((s.memWrite 0 4 s.seq.toNat).memWrite 4 2 s.csum.toNat).memWrite 6 1
    (s.flags &&& 0xE0#8).toNat).memWrite 7 1 0x00).done

/-- `DECODE`'s loads (`40_codec.md` R93). -/
def State.loadHeader (s : State) : State :=
  { s with
    seq := BitVec.ofNat 32 (s.memRead 0 4)
    csum := BitVec.ofNat 16 (s.memRead 4 2)
    flags := BitVec.ofNat 8 (s.memRead 6 1)
    rsvd := BitVec.ofNat 8 (s.memRead 7 1) }

/-- The body of `DECODE` (`40_codec.md` R93) under a setting of `UNWRITTEN`. -/
def decodeCommand (u : Unwritten) (s : State) : Result :=
  s.whenLengthOk (s.whenWrittenUnder u (List.range' 0 8) (.next s.loadHeader.drawn.done))

/-- `ENCODE`, command code 0x01. -/
def execEncode (s : State) : Result := s.whenIdle (encodeCommand s.start)

/-- `DECODE`, command code 0x02, under a setting of `UNWRITTEN`. -/
def execDecodeUnder (u : Unwritten) (s : State) : Result := s.whenIdle (decodeCommand u s.start)

/-- `DECODE`. -/
def execDecode (s : State) : Result := execDecodeUnder Config.unwritten s

end Sys2Proof.Machine
end

