-- ==== Sys2Proof/Machine/Operands.lean ====
section
/-! DEFINITION. The register map as the host's operands: what a read of a register number returns and what a write
stores (`10_state.md` R10, R21). -/

namespace Sys2Proof.Machine

/-- `RREG`'s value (`42_host_access.md` R123): zero-extended; `CMD` and the reserved numbers 9 to 15 read 0. -/
def State.readReg (s : State) (r : RegNum) : Word :=
  match r.toNat with
  | 0 => s.seq
  | 1 => s.csum.setWidth 32
  | 2 => s.flags.setWidth 32
  | 3 => s.rsvd.setWidth 32
  | 4 => s.len.setWidth 32
  | 5 => 0
  | 6 => s.statusWord.setWidth 32
  | 7 => s.calcReg.setWidth 32
  | 8 => s.kindNow.setWidth 32
  | _ => 0

/-- `WREG`'s store (`42_host_access.md` R122): the low bits of the data, as many as the register has. A write to a
read-only or reserved number is ignored. The write to `CMD` (5) stores nothing; it issues a command, which is the
meaning of `WREG`'s business. -/
def State.writeReg (s : State) (r : RegNum) (v : Word) : State :=
  match r.toNat with
  | 0 => { s with seq := v }
  | 1 => { s with csum := v.extractLsb' 0 16 }
  | 2 => { s with flags := v.extractLsb' 0 8 }
  | 4 => { s with len := v.extractLsb' 0 11 }
  | _ => s

end Sys2Proof.Machine
end

