-- ==== Sys2Proof/Machine/HostPort.lean ====
section
/-! DEFINITION. The host family (`42_host_access.md`): command issue, the reserved codes, and the four port
operations. -/

namespace Sys2Proof.Machine

/-- A reserved code: `raise BAD_CMD` (R125). -/
def badCommand (s : State) : Result := .next (s.raise .badCmd)

/-- Command issue (R124): `STATUS.BUSY <- 1`, then the command the code selects, one atomic step. -/
def issueUnder (u : Unwritten) (c : Byte) (s : State) : Result :=
  match c.toNat with
  | 0x01 => encodeCommand s.start
  | 0x02 => decodeCommand u s.start
  | 0x03 => checksumCommand u s.start
  | 0x04 => setcsumCommand u s.start
  | 0x05 => verifyCommand u s.start
  | _ => badCommand s.start

/-- Command issue. -/
def issue (c : Byte) (s : State) : Result := issueUnder Config.unwritten c s

/-- `BADCMD` (R125): a reserved command code, which is not kept (`60_exceptions.md` R130). -/
def execBadcmd (_code : Byte) (s : State) : Result := s.whenIdle (badCommand s.start)

/-- `WBUF(a, d)` (R120). -/
def execWbuf (a : Offset) (d : Byte) (s : State) : Result :=
  s.whenIdle (.next (s.writeByte a.toNat d))

/-- `RBUF(a)` (R121) under a setting of `UNWRITTEN`: the byte appears on `buf_rdata`. -/
def execRbufUnder (u : Unwritten) (a : Offset) (s : State) : Result :=
  s.whenIdle (s.whenWrittenUnder u [a.toNat] (.next { s with bufRdata := s.byteAt a.toNat }.drawn))

/-- `RBUF(a)`. -/
def execRbuf (a : Offset) (s : State) : Result := execRbufUnder Config.unwritten a s

/-- `WREG(r, v)` (R122) under a setting of `UNWRITTEN`: a write to `CMD` (5) issues the command with code `v[7:0]`. -/
def execWregUnder (u : Unwritten) (r : RegNum) (v : Word) (s : State) : Result :=
  s.whenIdle (if r.toNat = 5 then issueUnder u (v.extractLsb' 0 8) s else .next (s.writeReg r v))

/-- `WREG(r, v)`. -/
def execWreg (r : RegNum) (v : Word) (s : State) : Result := execWregUnder Config.unwritten r v s

/-- `RREG(r)` (R123): the value appears on `reg_rdata`. A read of `STATUS` (6) is the one port operation allowed while
busy (`70_reset_and_hazards.md` R156). -/
def execRreg (r : RegNum) (s : State) : Result :=
  if s.busy && decide (r.toNat ≠ 6) then .refused .portWhileBusy
  else .next { s with regRdata := s.readReg r }

end Sys2Proof.Machine
end

