-- ==== Sys2Proof/Machine/PacketKinds.lean ====
section
/-! DEFINITION. The packet kinds (`30_encoding.md` R60, R70 to R72). A header word is no port operation; the model runs it
as the host script that `20_memory.md` R52 gives for `decode(bytes) -> header fields`, over the 8 bytes of the word:
`WBUF` the bytes, `WREG LEN`, command `DECODE` (log entry 1). `KIND` then reads the word's kind. -/

namespace Sys2Proof.Machine

/-- The script of R52 for `decode` over one header word, under a setting of `UNWRITTEN`: offset 0 is bits 63 to 56
(`30_encoding.md` R60). -/
def receiveHeaderUnder (u : Unwritten) (h : BitVec 64) (s : State) : Result :=
  s.whenIdle (issueUnder u 0x02#8 ((s.memWrite 0 8 h.toNat).writeReg 4#4 8#32))

/-- The script of R52 for `decode` over one header word. -/
def receiveHeader (h : BitVec 64) (s : State) : Result := receiveHeaderUnder Config.unwritten h s

/-- `CONNECT_REQ`: flag set {SYN}, kind code 1. -/
def execConnectReq (seq : Word) (csum : Half) (mbz : BitVec 13) (s : State) : Result :=
  receiveHeader (headerWord seq csum 0b100#3 mbz) s

/-- `CONNECT_ACK`: flag set {SYN, ACK}, kind code 2. -/
def execConnectAck (seq : Word) (csum : Half) (mbz : BitVec 13) (s : State) : Result :=
  receiveHeader (headerWord seq csum 0b110#3 mbz) s

/-- `FILE_REQ`: flag set {REQ}, kind code 3. -/
def execFileReq (seq : Word) (csum : Half) (mbz : BitVec 13) (s : State) : Result :=
  receiveHeader (headerWord seq csum 0b001#3 mbz) s

/-- `REQ_ACK`: flag set {ACK, REQ}, kind code 4. -/
def execReqAck (seq : Word) (csum : Half) (mbz : BitVec 13) (s : State) : Result :=
  receiveHeader (headerWord seq csum 0b011#3 mbz) s

/-- `DATA`: the empty flag set, kind code 5. -/
def execData (seq : Word) (csum : Half) (mbz : BitVec 13) (s : State) : Result :=
  receiveHeader (headerWord seq csum 0b000#3 mbz) s

/-- `DATA_ACK`: flag set {ACK}, kind code 6. -/
def execDataAck (seq : Word) (csum : Half) (mbz : BitVec 13) (s : State) : Result :=
  receiveHeader (headerWord seq csum 0b010#3 mbz) s

/-- The undefined flag set {SYN, REQ}, kind code 0. -/
def execUndefinedSynReq (seq : Word) (csum : Half) (mbz : BitVec 13) (s : State) : Result :=
  receiveHeader (headerWord seq csum 0b101#3 mbz) s

/-- The undefined flag set {SYN, ACK, REQ}, kind code 0. -/
def execUndefinedSynAckReq (seq : Word) (csum : Half) (mbz : BitVec 13) (s : State) : Result :=
  receiveHeader (headerWord seq csum 0b111#3 mbz) s

end Sys2Proof.Machine
end

