-- ==== Sys2Proof/Machine/Dispatch.lean ====
section
/-! DEFINITION. One arm per instruction. -/

namespace Sys2Proof.Machine

def exec (i : Instr) (s : State) : Host.Outcome State Fault Refusal :=
  match i with
  | .encode => Sys2Proof.Machine.execEncode s
  | .decode => Sys2Proof.Machine.execDecode s
  | .checksum => Sys2Proof.Machine.execChecksum s
  | .setcsum => Sys2Proof.Machine.execSetcsum s
  | .verify => Sys2Proof.Machine.execVerify s
  | .badcmd code => Sys2Proof.Machine.execBadcmd code s
  | .wbuf a d => Sys2Proof.Machine.execWbuf a d s
  | .rbuf a => Sys2Proof.Machine.execRbuf a s
  | .wreg r v => Sys2Proof.Machine.execWreg r v s
  | .rreg r => Sys2Proof.Machine.execRreg r s
  | .connectReq seq csum mbz => Sys2Proof.Machine.execConnectReq seq csum mbz s
  | .connectAck seq csum mbz => Sys2Proof.Machine.execConnectAck seq csum mbz s
  | .fileReq seq csum mbz => Sys2Proof.Machine.execFileReq seq csum mbz s
  | .reqAck seq csum mbz => Sys2Proof.Machine.execReqAck seq csum mbz s
  | .data seq csum mbz => Sys2Proof.Machine.execData seq csum mbz s
  | .dataAck seq csum mbz => Sys2Proof.Machine.execDataAck seq csum mbz s
  | .undefinedSynReq seq csum mbz => Sys2Proof.Machine.execUndefinedSynReq seq csum mbz s
  | .undefinedSynAckReq seq csum mbz => Sys2Proof.Machine.execUndefinedSynAckReq seq csum mbz s

end Sys2Proof.Machine
end

