-- ==== Sys2Proof/Machine/Fetch.lean ====
section
/-! DEFINITION. Taking the host's next input, and what each kind of input does (`10_state.md` R30, `20_memory.md` R48,
R52). -/

namespace Sys2Proof.Machine

/-- The next input and the state in which it takes effect: the queue without it. -/
def State.nextInput (s : State) : Option (HostInput × State) :=
  match s.inputs with
  | [] => none
  | e :: rest => some (e, { s with inputs := rest })

/-- A transaction, given what an instruction does: its instruction runs; a cycle with neither strobe is no operation and
changes nothing; a pattern that is no operation has no meaning (`30_encoding.md` R77). -/
def runWord (run : Instr → State → Result) (w : PortWord) (s : State) : Result :=
  match decode w with
  | .ok i => run i s
  | .error .noOperation => .next s
  | .error e => .refused (.notAnOperation e)

/-- An input: a clock edge with `rst` high resets the block (`70_reset_and_hazards.md` R150), a transaction runs. -/
def runInput (run : Instr → State → Result) (e : HostInput) (s : State) : Result :=
  match e with
  | .rst => .next s.takeReset
  | .txn w => runWord run w s

/-- One step, given what an instruction does: the host's next input takes effect. Without an input nothing happens
(`60_exceptions.md` R138). -/
def stepWith (run : Instr → State → Result) (s : State) : Result :=
  match s.nextInput with
  | none => .next s
  | some (e, s') => runInput run e s'

/-- The transaction `w` as the host's next input. -/
def State.pushWord (s : State) (w : PortWord) : State := { s with inputs := .txn w :: s.inputs }

end Sys2Proof.Machine
end

