-- ==== Sys2Proof/Machine/Step.lean ====
section
/-! DEFINITION. One step: the host's next input takes effect (`10_state.md` R30, `20_memory.md` R48). -/

namespace Sys2Proof.Machine

/-- One step under the setting `Config.unwritten`. -/
def step (s : State) : Host.Outcome State Fault Refusal := stepWith exec s

/-- The state with the transaction of `nbits` bits whose value is `w` as the host's next input. -/
def State.withFetchWord (s : State) (nbits w : Nat) : State := s.pushWord ⟨nbits, w⟩

end Sys2Proof.Machine
end

