-- ==== Sys2Proof/Machine/Settings.lean ====
section
/-! DEFINITION. The machine with the open parameter `UNWRITTEN` as its argument (`00_scope.md` R6, `10_state.md` R24).
`exec` and `step`, whose types are fixed, are its instance at `Config.unwritten`. -/

namespace Sys2Proof.Machine

/-- What an instruction does under a setting of `UNWRITTEN`. The setting matters to the operations that read the buffer:
`RBUF` and the commands `DECODE`, `CHECKSUM`, `SETCSUM` and `VERIFY`, issued as their own rows or by `WREG`. A
packet-kind row writes the 8 bytes it decodes. -/
def execUnder (u : Unwritten) (i : Instr) (s : State) : Result :=
  match i with
  | .encode => execEncode s
  | .decode => execDecodeUnder u s
  | .checksum => execChecksumUnder u s
  | .setcsum => execSetcsumUnder u s
  | .verify => execVerifyUnder u s
  | .badcmd code => execBadcmd code s
  | .wbuf a d => execWbuf a d s
  | .rbuf a => execRbufUnder u a s
  | .wreg r v => execWregUnder u r v s
  | .rreg r => execRreg r s
  | .connectReq seq csum mbz => receiveHeaderUnder u (headerWord seq csum 0b100#3 mbz) s
  | .connectAck seq csum mbz => receiveHeaderUnder u (headerWord seq csum 0b110#3 mbz) s
  | .fileReq seq csum mbz => receiveHeaderUnder u (headerWord seq csum 0b001#3 mbz) s
  | .reqAck seq csum mbz => receiveHeaderUnder u (headerWord seq csum 0b011#3 mbz) s
  | .data seq csum mbz => receiveHeaderUnder u (headerWord seq csum 0b000#3 mbz) s
  | .dataAck seq csum mbz => receiveHeaderUnder u (headerWord seq csum 0b010#3 mbz) s
  | .undefinedSynReq seq csum mbz => receiveHeaderUnder u (headerWord seq csum 0b101#3 mbz) s
  | .undefinedSynAckReq seq csum mbz => receiveHeaderUnder u (headerWord seq csum 0b111#3 mbz) s

/-- One step under a setting of `UNWRITTEN`. -/
def stepUnder (u : Unwritten) (s : State) : Result := stepWith (execUnder u) s

end Sys2Proof.Machine
end

