-- ==== Sys2Proof/Safety.lean ====
section
/-! DEFINITION. The terms the claims are stated in: the machine's invariant, host scripts, and which instructions issue
which command. -/

namespace Sys2Proof.Machine

/-- The invariant of the untimed block: the buffer is in canonical form, and no command is running between steps
(`70_reset_and_hazards.md` R155: "after every command, `BUSY = 0`"). -/
def State.Inv (s : State) : Prop := Memory.wf s.buf ∧ s.busy = false

/-- The packet length is one the reading commands accept (`30_encoding.md` R69). -/
def State.lengthOk (s : State) : Prop := Config.hdrLen ≤ s.len.toNat ∧ s.len.toNat ≤ Config.bufSize

/-- Every offset from `lo` up to the end of the packet has been written (`70_reset_and_hazards.md` R154). -/
def State.writtenFrom (s : State) (lo : Nat) : Prop := ∀ a, lo ≤ a → a < s.len.toNat → s.written a = true

/-- A host script (`42_host_access.md` R127): the operations one after another, up to the first stop. -/
def runOps : List Instr → State → Result
  | [], s => .next s
  | i :: is, s =>
    match exec i s with
    | .next t => runOps is t
    | .fault r => .fault r
    | .refused r => .refused r

/-- `wbufs a, d0 d1 …` (`42_host_access.md` R128). -/
def wbufs (a : Nat) : List Byte → List Instr
  | [] => []
  | d :: ds => .wbuf (BitVec.ofNat 10 a) d :: wbufs (a + 1) ds

/-- `PACK` (R128). -/
def packScript : List Instr := [.encode, .setcsum]

/-- `UNPACK` (R128). -/
def unpackScript : List Instr := [.decode, .verify]

/-- The receive flow (R129) for a datagram: load it, set `LEN`, `UNPACK`. -/
def receiveScript (g : List Byte) : List Instr :=
  wbufs 0 g ++ .wreg 4#4 (BitVec.ofNat 32 g.length) :: unpackScript

/-- The 8 bytes of a header word, offset 0 first (`30_encoding.md` R60). -/
def headerBytes (h : BitVec 64) : List Byte :=
  [h.extractLsb' 56 8, h.extractLsb' 48 8, h.extractLsb' 40 8, h.extractLsb' 32 8,
   h.extractLsb' 24 8, h.extractLsb' 16 8, h.extractLsb' 8 8, h.extractLsb' 0 8]

/-- The instruction issues the command with code `c`: it is that CMD8 row, or a `WREG` of the code to `CMD`
(`42_host_access.md` R124). -/
def Issues (i : Instr) (c : Byte) : Prop :=
  i = decodeCmd8 c ∨ ∃ v : Word, i = .wreg 5#4 v ∧ v.extractLsb' 0 8 = c

/-- The instruction reads the buffer byte at offset `a` for its value: `RBUF` its offset; `DECODE` offsets 0 to 7;
`CHECKSUM` and `SETCSUM` the packet but for offsets 4 and 5, which they only leave out of the sum (`41_checksum.md`
R107 b); `VERIFY` the whole packet. A command with an illegal `LEN` reads nothing. -/
def Reads (i : Instr) (s : State) (a : Nat) : Prop :=
  (∃ o : Offset, i = .rbuf o ∧ a = o.toNat)
  ∨ s.lengthOk ∧ a < s.len.toNat ∧
    (Issues i 0x02 ∧ a < 8 ∨ (Issues i 0x03 ∨ Issues i 0x04) ∧ a ≠ 4 ∧ a ≠ 5 ∨ Issues i 0x05)

/-- Every byte the instruction reads has been written since reset: the host's duty (`70_reset_and_hazards.md` R154). -/
def ReadsWritten (i : Instr) (s : State) : Prop := ∀ a, Reads i s a → s.written a = true

/-- The instruction is a packet-kind row (format HDR64). -/
def isHeaderRow : Instr → Bool
  | .connectReq _ _ _ | .connectAck _ _ _ | .fileReq _ _ _ | .reqAck _ _ _ => true
  | .data _ _ _ | .dataAck _ _ _ | .undefinedSynReq _ _ _ | .undefinedSynAckReq _ _ _ => true
  | .encode | .decode | .checksum | .setcsum | .verify | .badcmd _ => false
  | .wbuf _ _ | .rbuf _ | .wreg _ _ | .rreg _ => false

end Sys2Proof.Machine
end

