-- ==== Sys2Proof/Certificates/Slice0/Obligations.lean ====
section
/-! DEFINITION. The statements about the UDPFT-HCC for the provers. -/

open Sys2Proof Sys2Proof.Machine

/-! ### Encoding -/

/-- Decoding the pattern of a well-formed instruction gives it back, every operand at every value (R60, R74, R77). -/
def Obligations.DecodeOfEncode : Prop :=
  ∀ i : Instr, i.wf = true → decode (encode i) = .ok i

/-- Whatever pattern decodes, decodes to a well-formed instruction: reserved command codes only to `BADCMD`, unclean
header words to a packet kind only when `STRICT_RESERVED` is false (R71, R75). -/
def Obligations.DecodedIsWellFormed : Prop :=
  ∀ (w : PortWord) (i : Instr), decode w = .ok i → i.wf = true

/-- Each pattern has one meaning: a pattern that decodes has the format of the encoding of what it decodes to, and its
bits, but for the data lines that a read ignores (R77). A pattern may come in whole bytes (log entry 8). -/
def Obligations.DecodedPatternIsItsEncoding : Prop :=
  ∀ (w : PortWord) (i : Instr), decode w = .ok i →
    formatBits w.width = (encode i).width
    ∧ match i with
      | .rbuf a => w.bits >>> 8 = (encode (.rbuf a)).bits >>> 8
      | .rreg r => w.bits >>> 32 = (encode (.rreg r)).bits >>> 32
      | i => w.bits = (encode i).bits

/-- Words written out from the spec's encodings decode to their instructions (R60, R74, R77). -/
def Obligations.WrittenOutWordsDecode : Prop :=
  decode ⟨8, 0b00000001⟩ = .ok .encode
  ∧ decode ⟨8, 0b00000101⟩ = .ok .verify
  ∧ decode ⟨8, 0b00000110⟩ = .ok (.badcmd 0x06)
  ∧ decode ⟨20, 0b10_0000001000_01001000⟩ = .ok (.wbuf 8 0x48)
  ∧ decode ⟨20, 0b01_1111111111_00000000⟩ = .ok (.rbuf 1023)
  ∧ decode ⟨38, 0b10_0010_00000000000000000000000011000000⟩ = .ok (.wreg 2 0xC0)
  ∧ decode ⟨38, 0b01_1000_00000000000000000000000000000000⟩ = .ok (.rreg 8)
  ∧ decode ⟨64, 0x00000005BFFA4000⟩ = .ok (.dataAck 5 0xBFFA 0)

/-- `00` and `11` strobes are not operations, on both ports, whatever the other lines carry; a step does nothing in the
first case and has no meaning in the second (R77; log entry 15). -/
def Obligations.StrobePatternsAreNoOperations : Prop :=
  (∀ (a : Offset) (d : Byte) (r : RegNum) (v : Word),
    decode (.of (0b00#2 ++ a ++ d)) = .error .noOperation
    ∧ decode (.of (0b00#2 ++ r ++ v)) = .error .noOperation
    ∧ decode (.of (0b11#2 ++ a ++ d)) = .error .bothStrobes
    ∧ decode (.of (0b11#2 ++ r ++ v)) = .error .bothStrobes)
  ∧ ∀ (s : State) (w : PortWord) (rest : List HostInput), s.inputs = .txn w :: rest →
      (decode w = .error .noOperation → step s = .next { s with inputs := rest })
      ∧ (decode w = .error .bothStrobes → step s = .refused (.notAnOperation .bothStrobes))

/-! ### Step and reset -/

/-- A step runs the decoded instruction: the pending transaction leaves the queue and `exec` does the rest. -/
def Obligations.StepRunsDecodedInstruction : Prop :=
  (∀ (s : State) (w : PortWord) (rest : List HostInput) (i : Instr),
    s.inputs = .txn w :: rest → decode w = .ok i → step s = exec i { s with inputs := rest })
  ∧ (∀ (s : State) (nbits w : Nat) (i : Instr),
    decodeTableWord nbits w = some i → step (s.withFetchWord nbits w) = exec i s)
  ∧ ∀ s : State, s.inputs = [] → step s = .next s

/-- The reset values of R33: every register, `KIND = 5`, no byte written, and every byte of `BUF`
unspecified: a free value, the model's setting of `UNWRITTEN` (log entry 2). -/
def Obligations.ResetValues : Prop :=
  State.reset.seq = 0 ∧ State.reset.csum = 0 ∧ State.reset.flags = 0 ∧ State.reset.rsvd = 0
  ∧ State.reset.len = 0 ∧ State.reset.calcReg = 0
  ∧ State.reset.busy = false ∧ State.reset.code = .ok
  ∧ (∀ r : RegNum, State.reset.readReg r = if r = 8#4 then 5 else 0)
  ∧ ∀ a : Nat, State.reset.written a = false
      ∧ State.reset.byteAt a = Config.freeByte State.reset.draws a

/-- A clock edge with `rst` high, in any state, also one with `BUSY = 1` (R150, R151, R152): the registers take their
reset values, the written marks are cleared, every byte of `BUF` is unspecified: a free value, the model's setting of
`UNWRITTEN` (log entry 2). The inputs still to come stay (log entry 11). -/
def Obligations.RstEdgeResets : Prop :=
  ∀ (s : State) (rest : List HostInput), s.inputs = .rst :: rest →
    ∃ t, step s = .next t
      ∧ t.seq = 0 ∧ t.csum = 0 ∧ t.flags = 0 ∧ t.rsvd = 0 ∧ t.len = 0 ∧ t.calcReg = 0
      ∧ t.busy = false ∧ t.code = .ok ∧ t.kindNow = 5 ∧ t.inputs = rest
      ∧ ∀ a : Nat, t.written a = false ∧ t.byteAt a = Config.freeByte t.draws a

/-- R153: after reset the block is idle, any operation can be the first, `ENCODE` writes eight zero bytes and ends `OK`,
and the four reading commands end with `MALFORMED_HEADER`. That an `RBUF` completes, of a byte nothing has written, is the
model's setting of `UNWRITTEN` (log entry 2). -/
def Obligations.FirstOperationAfterReset : Prop :=
  State.reset.busy = false ∧ State.reset.code = .ok
  ∧ (∀ i : Instr, isHeaderRow i = false → ∃ t, exec i State.reset = .next t)
  ∧ (∃ m, exec .encode State.reset = .next { State.reset with buf := m }
      ∧ ∀ a, Memory.read m a = if a < 8 then some 0x00 else none)
  ∧ ∀ i ∈ [Instr.decode, .checksum, .setcsum, .verify],
      exec i State.reset = .next { State.reset with code := .malformedHeader }

/-! ### The host's port operations -/

/-- `WBUF(a, d)` (R120): the byte is stored and marked written; every other byte, every register and `STATUS` keep
their values. -/
def Obligations.WbufStoresOneByte : Prop :=
  ∀ (a : Offset) (d : Byte) (s : State), s.busy = false →
    ∃ m, exec (.wbuf a d) s = .next { s with buf := m }
      ∧ ∀ b, Memory.read m b = if b = a.toNat then some d else Memory.read s.buf b

/-- `RBUF(a)` (R121): `buf_rdata` gets the byte, a free value if nothing has written it (R24; log entry 2),
and nothing else of the machine changes (R46). -/
def Obligations.RbufReturnsByte : Prop :=
  ∀ (a : Offset) (s : State), s.busy = false →
    ∃ d, exec (.rbuf a) s = .next { s with bufRdata := d, draws := s.draws + 1 }
      ∧ (∀ b, Memory.read s.buf a.toNat = some b → d = b)
      ∧ (Memory.read s.buf a.toNat = none → d = Config.freeByte s.draws a.toNat)

/-- `WREG(r, v)` (R122): the low bits are stored; `CMD` issues the command with code `v[7:0]`; read-only and reserved
numbers ignore the write. -/
def Obligations.WregStoresLowBits : Prop :=
  ∀ (v : Word) (s : State), s.busy = false →
    exec (.wreg 0 v) s = .next { s with seq := v }
    ∧ exec (.wreg 1 v) s = .next { s with csum := v.setWidth 16 }
    ∧ exec (.wreg 2 v) s = .next { s with flags := v.setWidth 8 }
    ∧ exec (.wreg 4 v) s = .next { s with len := v.setWidth 11 }
    ∧ exec (.wreg 5 v) s = exec (decodeCmd8 (v.setWidth 8)) s
    ∧ ∀ r : RegNum, (r = 3 ∨ r = 6 ∨ r = 7 ∨ r = 8 ∨ 9 ≤ r.toNat) → exec (.wreg r v) s = .next s

/-- Command issue (R73, R74, R75, R124): the low 8 bits of the data select the command, every other code `BADCMD`; it is
one step with `BUSY = 0` before and after (log entry 7). That a command completes over unwritten bytes is log entry 2. -/
def Obligations.WregToCmdIssuesCommand : Prop :=
  ∀ (v : Word) (s : State), s.busy = false →
    (v.setWidth 8 = 0x01#8 → exec (.wreg 5 v) s = exec .encode s)
    ∧ (v.setWidth 8 = 0x02#8 → exec (.wreg 5 v) s = exec .decode s)
    ∧ (v.setWidth 8 = 0x03#8 → exec (.wreg 5 v) s = exec .checksum s)
    ∧ (v.setWidth 8 = 0x04#8 → exec (.wreg 5 v) s = exec .setcsum s)
    ∧ (v.setWidth 8 = 0x05#8 → exec (.wreg 5 v) s = exec .verify s)
    ∧ (v.setWidth 8 = 0x00#8 ∨ 0x06 ≤ (v.setWidth 8).toNat →
        exec (.wreg 5 v) s = exec (.badcmd (v.setWidth 8)) s)
    ∧ ∃ t, exec (.wreg 5 v) s = .next t ∧ t.busy = false

/-- `RREG(r)` (R123): `reg_rdata` gets the register zero-extended, `STATUS` as `BUSY << 7 | CODE` with the numbers of
R130, and nothing else changes. Only `STATUS` is read while busy (R156). -/
def Obligations.RregReadsRegisterMap : Prop :=
  ∀ s : State,
    exec (.rreg 6) s = .next
      { s with
        regRdata := BitVec.ofNat 32 ((s.busy.toNat <<< 7) +
          match s.code with
          | .ok => 0
          | .checksumMismatch => 1
          | .malformedHeader => 2
          | .lenError => 3
          | .badCmd => 4) }
    ∧ (s.busy = false →
      exec (.rreg 0) s = .next { s with regRdata := s.seq }
      ∧ exec (.rreg 1) s = .next { s with regRdata := BitVec.ofNat 32 s.csum.toNat }
      ∧ exec (.rreg 2) s = .next { s with regRdata := BitVec.ofNat 32 s.flags.toNat }
      ∧ exec (.rreg 3) s = .next { s with regRdata := BitVec.ofNat 32 s.rsvd.toNat }
      ∧ exec (.rreg 4) s = .next { s with regRdata := BitVec.ofNat 32 s.len.toNat }
      ∧ exec (.rreg 5) s = .next { s with regRdata := 0 }
      ∧ exec (.rreg 7) s = .next { s with regRdata := BitVec.ofNat 32 s.calcReg.toNat }
      ∧ exec (.rreg 8) s = .next { s with regRdata := BitVec.ofNat 32 (kind s.flags s.rsvd).toNat }
      ∧ ∀ r : RegNum, 9 ≤ r.toNat → exec (.rreg r) s = .next { s with regRdata := 0 })

/-- Writing a register and reading it back (R20, R21): the storage registers give the data under their width, the
read-only ones and `CMD`'s neighbours what they held, the reserved ones 0. -/
def Obligations.WriteThenReadRegister : Prop :=
  ∀ (r : RegNum) (v : Word) (s : State), s.busy = false → r ≠ 5 →
    ∃ t, runOps [.wreg r v, .rreg r] s = .next t
      ∧ t.regRdata =
          (if r = 0 then v
           else if r = 1 then v &&& 0xFFFF
           else if r = 2 then v &&& 0xFF
           else if r = 4 then v &&& 0x7FF
           else s.readReg r)
      ∧ t.code = s.code ∧ t.busy = s.busy ∧ t.buf = s.buf

/-- `BADCMD` (R125): `STATUS.CODE <- BAD_CMD` and no other state changes. -/
def Obligations.BadcmdChangesOnlyCode : Prop :=
  ∀ (c : Byte) (s : State), s.busy = false → (c = 0x00 ∨ 0x06 ≤ c.toNat) →
    exec (.badcmd c) s = .next { s with code := .badCmd }
    ∧ ∀ v : Word, v.setWidth 8 = c → exec (.wreg 5 v) s = .next { s with code := .badCmd }

/-- No port operation while busy but a read of `STATUS`, which returns `0x80 | CODE` (R156; log entry 6). -/
def Obligations.BusyAllowsOnlyStatusRead : Prop :=
  ∀ s : State, s.busy = true →
    (∀ i : Instr, i ≠ .rreg 6 → exec i s = .refused .portWhileBusy)
    ∧ exec (.rreg 6) s = .next { s with regRdata := 0x80#32 ||| s.code.toBits.setWidth 32 }

/-! ### The codec -/

/-- `ENCODE` (R90, R92): it always completes with `OK`; offsets 0 to 7 hold `EncodeHeader` of the registers, every other
byte and every register keep their values, whatever `LEN` is. -/
def Obligations.EncodeStoresHeader : Prop :=
  ∀ s : State, s.busy = false →
    ∃ m, exec .encode s = .next { s with buf := m, code := .ok }
      ∧ ∀ a, Memory.read m a =
          if a < 8 then
            (encodeHeader s.seq s.csum (synOf s.flags) (ackOf s.flags) (reqOf s.flags))[a]?
          else Memory.read s.buf a

/-- `DECODE` with a legal length (R91, R93): the four field registers get `DecodeHeader` of the packet, the buffer and
every other register keep their values. Unwritten bytes are free values (log entry 2). -/
def Obligations.DecodeLoadsHeader : Prop :=
  ∀ s : State, s.busy = false → s.lengthOk →
    ∃ h, decodeHeader s.packet = some h
      ∧ exec .decode s = .next
          { s with
            seq := h.seq, csum := h.csum, flags := h.flags, rsvd := h.rsvd
            code := .ok, draws := s.draws + 1 }

/-- The length checks of the four reading commands (R133, R134, R136): only `STATUS.CODE` changes. -/
def Obligations.LengthChecksChangeOnlyCode : Prop :=
  ∀ (i : Instr) (s : State), i ∈ [Instr.decode, .checksum, .setcsum, .verify] → s.busy = false →
    (1024 < s.len.toNat → exec i s = .next { s with code := .lenError })
    ∧ (s.len.toNat < 8 → exec i s = .next { s with code := .malformedHeader })

/-- The round trip (R94): on byte sequences, with any payload behind, and on the block. -/
def Obligations.HeaderRoundTrip : Prop :=
  (∀ (seq : Word) (csum : Half) (syn ack req : Bool) (payload : List Byte),
    decodeHeader (encodeHeader seq csum syn ack req ++ payload) =
      some { seq := seq, csum := csum,
             flags := (if syn then 0x80 else 0) ||| (if ack then 0x40 else 0) ||| (if req then 0x20 else 0),
             rsvd := 0x00 })
  ∧ ∀ s : State, s.busy = false → s.lengthOk →
      ∃ m d, runOps [.encode, .decode] s = .next
        { s with buf := m, flags := s.flags &&& 0xE0, rsvd := 0, code := .ok, draws := d }

/-- Re-encoding a decoded header (R95 a): it differs from the header decoded only in the 13 must-be-zero bits, which
become zero, so it is the same header exactly when that header was clean. -/
def Obligations.ReencodeKeepsCleanHeader : Prop :=
  ∀ (b : List Byte) (h : HeaderFields), decodeHeader b = some h →
    encodeHeader h.seq h.csum (synOf h.flags) (ackOf h.flags) (reqOf h.flags) =
        b.take 6 ++ [h.flags &&& 0xE0, 0x00]
    ∧ (encodeHeader h.seq h.csum (synOf h.flags) (ackOf h.flags) (reqOf h.flags) = b.take 8
        ↔ headerClean h.flags h.rsvd = true)

/-- After `ENCODE` the host finds the registers' bytes in the buffer, most significant first (R42, R43). -/
def Obligations.EncodedBytesAsTheHostReadsThem : Prop :=
  ∀ s : State, s.busy = false →
    (∃ t, runOps [.encode, .rbuf 0] s = .next t ∧ t.bufRdata = s.seq.extractLsb' 24 8)
    ∧ (∃ t, runOps [.encode, .rbuf 3] s = .next t ∧ t.bufRdata = s.seq.extractLsb' 0 8)
    ∧ (∃ t, runOps [.encode, .rbuf 4] s = .next t ∧ t.bufRdata = s.csum.extractLsb' 8 8)
    ∧ (∃ t, runOps [.encode, .rbuf 5] s = .next t ∧ t.bufRdata = s.csum.extractLsb' 0 8)

/-! ### The checksum -/

/-- The closed form of `RawSum` (R100). -/
def Obligations.RawSumClosedForm : Prop :=
  ∀ b : List Byte,
    rawSum b = 256 * (∑ i ∈ (Finset.range b.length).filter (fun i => i % 2 = 0), (b.getD i 0).toNat)
      + ∑ i ∈ (Finset.range b.length).filter (fun i => i % 2 = 1), (b.getD i 0).toNat

/-- The sizes of R103: 25 bits for the sum, 17 for the folded sum, whose maximum is reached at 0x1FDFFFF. -/
def Obligations.ChecksumSizes : Prop :=
  (∀ b : List Byte, 8 ≤ b.length → b.length ≤ 1024 →
    rawSum (zeroed b) ≤ 0x1FEFE01 ∧ rawSum (zeroed b) >>> 16 ≤ 0x1FE ∧ fold1 (rawSum (zeroed b)) ≤ 0x101FC)
  ∧ 511 * 0xFFFF = 0x1FEFE01 ∧ 0x1FEFE01 < 2 ^ 25 ∧ 0x101FC < 2 ^ 17 ∧ fold1 0x1FDFFFF = 0x101FC

/-- The single fold (R102, R104): the checksum is the complement of the folded sum modulo 65536, and a bit 16 of the
folded sum is dropped, not added back. -/
def Obligations.SingleFoldDropsCarry : Prop :=
  (∀ b : List Byte, 8 ≤ b.length →
    (checksum b).toNat = 0xFFFF - fold1 (rawSum (zeroed b)) % 65536)
  ∧ (∀ b : List Byte, 8 ≤ b.length → b.length ≤ 1024 → 0x10000 ≤ fold1 (rawSum (zeroed b)) →
    (checksum b).toNat = 0xFFFF - (fold1 (rawSum (zeroed b)) - 0x10000))
  ∧ ∀ x y : Byte, checksum [0xFF, 0xFF, 0xFF, 0xFF, x, y, 0x00, 0x00, 0x00, 0x01] = 0xFFFF

/-- The laws of R110 for every packet of at least 8 bytes: self-independence, `Verify(SetChecksum(b))`, idempotence, and
the checksum of a packet with its checksum set. -/
def Obligations.ChecksumLaws : Prop :=
  (∀ b b' : List Byte, 8 ≤ b.length → b'.length = b.length →
    (∀ i, i ≠ 4 → i ≠ 5 → b'[i]? = b[i]?) → checksum b' = checksum b)
  ∧ ∀ b : List Byte, 8 ≤ b.length →
      verify (setChecksum b) = true
      ∧ setChecksum (setChecksum b) = setChecksum b
      ∧ checksum (setChecksum b) = checksum b

/-- Single-bit sensitivity (R111): a flip outside the field changes the computed checksum, one inside changes the stored
one only, and either way a verified packet no longer verifies. -/
def Obligations.SingleBitFlipIsDetected : Prop :=
  ∀ (b : List Byte) (i k : Nat), 8 ≤ b.length → i < b.length → k < 8 →
    let b' := b.set i (b.getD i 0 ^^^ BitVec.twoPow 8 k)
    (i ≠ 4 → i ≠ 5 → checksum b' ≠ checksum b)
    ∧ (i = 4 ∨ i = 5 → checksum b' = checksum b ∧ be16 b' 4 ≠ be16 b 4)
    ∧ (verify b = true → verify b' = false)

/-- What the checksum does not detect (R112): aligned words swapped, trailing zero bytes; and what it depends on, the
folded sum modulo 65536, which is the sum modulo 65535 up to the fold. -/
def Obligations.ChecksumBlindSpots : Prop :=
  (∀ (p q r : List Byte) (h1 l1 h2 l2 : Byte),
    p.length % 2 = 0 → q.length % 2 = 0 → p.length ≠ 4 → p.length + 2 + q.length ≠ 4 →
    8 ≤ p.length + q.length + r.length + 4 →
    checksum (p ++ [h1, l1] ++ q ++ [h2, l2] ++ r) = checksum (p ++ [h2, l2] ++ q ++ [h1, l1] ++ r))
  ∧ (∀ (b : List Byte) (n : Nat), 8 ≤ b.length → checksum (b ++ List.replicate n 0x00) = checksum b)
  ∧ (∀ s : Nat, fold1 s % 65535 = s % 65535)
  ∧ ∀ b b' : List Byte, 8 ≤ b.length → 8 ≤ b'.length →
      (checksum b = checksum b' ↔
        fold1 (rawSum (zeroed b)) % 65536 = fold1 (rawSum (zeroed b')) % 65536)

/-- `CHECKSUM` with a legal length (R107): `CALC` gets the packet's checksum, `STATUS.CODE` is `OK`, nothing else
changes. Unwritten bytes are free values (log entry 2). -/
def Obligations.ChecksumWritesCalc : Prop :=
  ∀ s : State, s.busy = false → s.lengthOk →
    exec .checksum s = .next
      { s with calcReg := checksum s.packet, code := .ok, draws := s.draws + 1 }

/-- `SETCSUM` with a legal length (R105, R108): offsets 4 and 5, `CSUM` and `CALC` get the packet's checksum, every other
byte and register keep their values; and when the host has written the rest of the packet, the packet becomes
`SetChecksum` of what it was. Unwritten bytes are free values (log entry 2). -/
def Obligations.SetcsumStoresChecksum : Prop :=
  ∀ s : State, s.busy = false → s.lengthOk →
    ∃ m, exec .setcsum s = .next
          { s with buf := m, csum := checksum s.packet, calcReg := checksum s.packet,
                   code := .ok, draws := s.draws + 1 }
      ∧ (∀ a, Memory.read m a =
          if a = 4 then some ((checksum s.packet).extractLsb' 8 8)
          else if a = 5 then some ((checksum s.packet).extractLsb' 0 8)
          else Memory.read s.buf a)
      ∧ ((∀ a, a < s.len.toNat → a ≠ 4 → a ≠ 5 → s.written a = true) →
          ∀ d, State.packet { s with buf := m, draws := d } = setChecksum s.packet)

/-- `VERIFY` with a legal length (R106, R109): `CALC` gets the recomputed checksum, and the code is `OK` exactly when the
packet verifies against the field in the buffer; nothing else changes. Unwritten bytes are free values (log entry 2). -/
def Obligations.VerifyComparesStoredChecksum : Prop :=
  ∀ s : State, s.busy = false → s.lengthOk →
    exec .verify s = .next
      { s with calcReg := checksum s.packet
               code := if verify s.packet = true then .ok else .checksumMismatch
               draws := s.draws + 1 }

/-! ### The block as a whole -/

/-- The buffer's canonical form and `BUSY = 0` survive every step. -/
def Obligations.StepKeepsInv : Prop :=
  ∀ s t : State, s.Inv → step s = .next t → t.Inv

/-- The reset state has the invariant. -/
def Obligations.ResetHasInv : Prop := State.reset.Inv

/-- Every operation is available whenever the block is not busy, and leaves it not busy, ready for the next host
operation (R137, R141, R155). Of unwritten bytes this rests on log entry 2, of the packet-kind rows on log entry 1. -/
def Obligations.EveryOperationCompletes : Prop :=
  ∀ (i : Instr) (s : State), s.busy = false →
    ∃ t, exec i s = .next t ∧ t.busy = false ∧ t.inputs = s.inputs

/-- Which instruction changes which register (R10, the engine's and the host's columns; R15, R17, R18). That
the read results `reg_rdata` and `buf_rdata` keep their values between reads is the model's choice (log entry 4). -/
def Obligations.RegisterWriters : Prop :=
  ∀ (i : Instr) (s t : State), i.wf = true → isHeaderRow i = false → exec i s = .next t →
    (t.seq ≠ s.seq → (∃ v, i = .wreg 0 v) ∨ Issues i 0x02)
    ∧ (t.csum ≠ s.csum → (∃ v, i = .wreg 1 v) ∨ Issues i 0x02 ∨ Issues i 0x04)
    ∧ (t.flags ≠ s.flags → (∃ v, i = .wreg 2 v) ∨ Issues i 0x02)
    ∧ (t.rsvd ≠ s.rsvd → Issues i 0x02)
    ∧ (t.len ≠ s.len → ∃ v, i = .wreg 4 v)
    ∧ (t.code ≠ s.code → ∃ c, Issues i c)
    ∧ (t.calcReg ≠ s.calcReg → Issues i 0x03 ∨ Issues i 0x04 ∨ Issues i 0x05)
    ∧ (t.regRdata ≠ s.regRdata → ∃ r, i = .rreg r)
    ∧ (t.bufRdata ≠ s.bufRdata → ∃ a, i = .rbuf a)

/-- Which instruction changes which byte of the buffer, or its written mark: `WBUF` its own offset, `ENCODE` offsets 0
to 7, `SETCSUM` offsets 4 and 5; the payload is untouched by every command (R23, R25, R41). -/
def Obligations.BufferWriters : Prop :=
  ∀ (i : Instr) (s t : State) (a : Nat), isHeaderRow i = false → exec i s = .next t →
    Memory.read t.buf a ≠ Memory.read s.buf a →
      (∃ (o : Offset) (d : Byte), i = .wbuf o d ∧ a = o.toNat)
      ∨ (Issues i 0x01 ∧ a < 8)
      ∨ (Issues i 0x04 ∧ (a = 4 ∨ a = 5))

/-- A written mark never goes back to false except by reset (R23). -/
def Obligations.WrittenMarksStay : Prop :=
  ∀ (s t : State) (a : Nat), step s = .next t → s.inputs.head? ≠ some .rst →
    s.written a = true → t.written a = true

/-- What a failing command changes (R139): `STATUS.CODE` alone, and `CALC` too on `CHECKSUM_MISMATCH`. The draw counter
is the model's own. -/
def Obligations.FailingCommandHasNoPartialEffect : Prop :=
  ∀ (i : Instr) (c : Byte) (s t : State), Issues i c → s.busy = false → exec i s = .next t →
    t.code ≠ .ok →
      t = { s with code := t.code, calcReg := t.calcReg, draws := t.draws }
      ∧ (t.code ≠ .checksumMismatch → t.calcReg = s.calcReg ∧ t.draws = s.draws)

/-- The order of checks (R136): `BAD_CMD`, `LEN_ERROR`, `MALFORMED_HEADER`, and for `VERIFY` only
`CHECKSUM_MISMATCH`; `ENCODE` checks nothing. That a command completes over unwritten bytes, and its code there, are
the model's setting of `UNWRITTEN` (log entry 2). -/
def Obligations.StatusOfEveryCommand : Prop :=
  ∀ (i : Instr) (c : Byte) (s : State), Issues i c → s.busy = false →
    ∃ t, exec i s = .next t
      ∧ t.code =
          (if c = 0x00 ∨ 0x06 ≤ c.toNat then StatusCode.badCmd
           else if c = 0x01 then .ok
           else if 1024 < s.len.toNat then .lenError
           else if s.len.toNat < 8 then .malformedHeader
           else if c = 0x05 ∧ checksum s.packet ≠ be16 s.packet 4 then .checksumMismatch
           else .ok)

/-- Every operation may be repeated with no host write between (R46): the second time leaves the block as after the first,
in every idle state in which the bytes it reads have been written. `ENCODE`, and a command with an illegal `LEN`, read
none (`Reads`). Two reads of an unwritten byte may differ (R24). Of the packet-kind rows this rests on log entry 1. -/
def Obligations.CommandsAreIdempotent : Prop :=
  ∀ (i : Instr) (s : State), s.busy = false → ReadsWritten i s →
    ∃ t m d, exec i s = .next t ∧ exec i t = .next { t with buf := m, draws := d }
      ∧ ∀ a, Memory.read m a = Memory.read t.buf a

/-- Stale bytes at and above `LEN` do not matter to the four commands that read `LEN` (R107 e, R157): two buffers that
agree below `LEN`, written where the command reads, give the same registers and the same bytes below `LEN`, and the
bytes at and above `LEN` stay as they were; only `SETCSUM` stores at all. -/
def Obligations.StaleBytesDoNotMatter : Prop :=
  ∀ (i : Instr) (s t : State) (m : Memory), i ∈ [Instr.decode, .checksum, .setcsum, .verify] → ReadsWritten i s →
    (∀ a, a < s.len.toNat → Memory.read m a = Memory.read s.buf a) →
    exec i s = .next t →
      ∃ m', exec i { s with buf := m } = .next { t with buf := m' }
        ∧ (∀ a, a < s.len.toNat → Memory.read m' a = Memory.read t.buf a)
        ∧ (∀ a, s.len.toNat ≤ a → Memory.read m' a = Memory.read m a ∧ Memory.read t.buf a = Memory.read s.buf a)
        ∧ (i ≠ .setcsum → m' = m ∧ t.buf = s.buf)

/-- `PACK`, then `VERIFY` (R110 c, R158): a packet whose payload the host has written verifies after `ENCODE` and
`SETCSUM`, and a second `ENCODE` leaves it as it is. -/
def Obligations.PackedPacketVerifies : Prop :=
  ∀ s : State, s.busy = false → s.lengthOk → s.writtenFrom 8 →
    ∃ t, runOps packScript s = .next t
      ∧ (∃ u, exec .verify t = .next u ∧ u.code = .ok)
      ∧ ∃ u, exec .encode t = .next u ∧ ∀ a, Memory.read u.buf a = Memory.read t.buf a

/-- A change of the header after `SETCSUM` leaves a stale checksum (R158): when `SEQ` changes in one bit and `ENCODE`
alone follows, the packet no longer verifies (R109, R111). -/
def Obligations.StaleChecksumIsReported : Prop :=
  ∀ (s : State) (k : Nat), s.busy = false → s.lengthOk → s.writtenFrom 8 → k < 32 →
    ∃ t, runOps (packScript ++ [.wreg 0 (s.seq ^^^ BitVec.twoPow 32 k), .encode, .verify]) s = .next t
      ∧ t.code = .checksumMismatch

/-- One bit of a verified packet flipped in the buffer is reported (R111, R132): the flipped byte written with `WBUF`,
`VERIFY` ends with `CHECKSUM_MISMATCH`. -/
def Obligations.FlippedBufferBitIsReported : Prop :=
  ∀ (s : State) (a : Offset) (k : Nat), s.busy = false → s.lengthOk → s.writtenFrom 0 →
    verify s.packet = true → a.toNat < s.len.toNat → k < 8 →
      ∃ t, runOps [.wbuf a (s.byteAt a.toNat ^^^ BitVec.twoPow 8 k), .verify] s = .next t
        ∧ t.code = .checksumMismatch

/-- The two standard flows joined (R128, R129): what one block packs, another block, in any idle state, receives: it
verifies, and the field registers hold the sender's fields with the must-be-zero bits cleared. -/
def Obligations.SentPacketIsReceived : Prop :=
  ∀ s r : State, s.busy = false → s.lengthOk → s.writtenFrom 8 → r.busy = false →
    ∃ t u, runOps packScript s = .next t
      ∧ runOps (receiveScript t.packet) r = .next u
      ∧ u.code = .ok ∧ u.packet = t.packet
      ∧ u.seq = s.seq ∧ u.csum = t.csum ∧ u.flags = s.flags &&& 0xE0 ∧ u.rsvd = 0
      ∧ t.packet.drop 8 = s.packet.drop 8

/-! ### Packet kinds -/

/-- `Kind` (R71): the code of the exact flag set, 0 for an unclean header when `STRICT_RESERVED` is true, never 7. -/
def Obligations.KindOfFlagSet : Prop :=
  ∀ flags rsvd : Byte,
    kind flags rsvd =
      (if Config.strictReserved = true ∧ ¬(flags &&& 0x1F = 0 ∧ rsvd = 0) then 0
       else
        match synOf flags, ackOf flags, reqOf flags with
        | true, false, false => 1
        | true, true, false => 2
        | false, false, true => 3
        | false, true, true => 4
        | false, false, false => 5
        | false, true, false => 6
        | true, false, true => 0
        | true, true, true => 0)
    ∧ kind flags rsvd ≠ 7

/-- `KIND` follows `FLAGS` and `RSVD` at once (R19): after a write to `FLAGS` and after a `DECODE`. That a `DECODE` of
unwritten bytes completes is the model's setting of `UNWRITTEN` (log entry 2). -/
def Obligations.KindFollowsRegisters : Prop :=
  ∀ s : State, s.busy = false →
    (∀ v : Word, ∃ t, runOps [.wreg 2 v, .rreg 8] s = .next t
      ∧ t.regRdata = (kind (v.setWidth 8) s.rsvd).setWidth 32)
    ∧ (s.lengthOk → ∃ t, runOps [.decode, .rreg 8] s = .next t
      ∧ t.regRdata = (kind (s.packet.getD 6 0) (s.packet.getD 7 0)).setWidth 32)

/-- A packet-kind row is the host script of R52 for `decode(bytes)`: `WBUF` the 8 bytes of the header word, `WREG LEN, 8`,
command `DECODE`. That a row is executed at all is this model's choice (log entry 1). -/
def Obligations.HeaderRowIsDecodeScript : Prop :=
  ∀ (seq : Word) (csum : Half) (mbz : BitVec 13) (s : State),
    ∀ p ∈ [(Instr.connectReq seq csum mbz, 0b100#3), (.connectAck seq csum mbz, 0b110#3),
           (.fileReq seq csum mbz, 0b001#3), (.reqAck seq csum mbz, 0b011#3),
           (.data seq csum mbz, 0b000#3), (.dataAck seq csum mbz, 0b010#3),
           (.undefinedSynReq seq csum mbz, 0b101#3), (.undefinedSynAckReq seq csum mbz, 0b111#3)],
      exec p.1 s =
        runOps (wbufs 0 (headerBytes (headerWord seq csum p.2 mbz)) ++ [.wreg 4 8, .decode]) s

/-- What a packet-kind row leaves (R60, R65, R70, R71, R72; that it is executed is this model's choice, log entry 1): the
header word stands at offsets 0 to 7, `LEN` is 8, the field registers hold its fields, `STATUS.CODE` is `OK`, everything
else keeps its value; and `KIND` reads the row's code when the must-be-zero bits are zero. -/
def Obligations.HeaderRowResult : Prop :=
  ∀ (seq : Word) (csum : Half) (mbz : BitVec 13) (s : State), s.busy = false →
    ∀ p ∈ [(Instr.connectReq seq csum mbz, 0b100#3, 1#32), (.connectAck seq csum mbz, 0b110#3, 2#32),
           (.fileReq seq csum mbz, 0b001#3, 3#32), (.reqAck seq csum mbz, 0b011#3, 4#32),
           (.data seq csum mbz, 0b000#3, 5#32), (.dataAck seq csum mbz, 0b010#3, 6#32),
           (.undefinedSynReq seq csum mbz, 0b101#3, 0#32),
           (.undefinedSynAckReq seq csum mbz, 0b111#3, 0#32)],
      ∃ t m d, exec p.1 s = .next t
        ∧ t = { s with
                seq := seq, csum := csum, flags := p.2.1 ++ mbz.extractLsb' 8 5, rsvd := mbz.extractLsb' 0 8
                len := 8, code := .ok, buf := m, draws := d }
        ∧ (∀ a, Memory.read m a =
            if a < 8 then (headerBytes (headerWord seq csum p.2.1 mbz))[a]? else Memory.read s.buf a)
        ∧ (mbz = 0 → t.readReg 8 = p.2.2)

/-! ### The parameter `UNWRITTEN` -/

/-- The setting of `UNWRITTEN` matters only to reads of unwritten bytes (R6, R24; 41_checksum.md R107 b): where every byte
an operation reads has been written, it does the same under both settings; where one has not, `refuse` refuses the
operation. -/
def Obligations.UnwrittenSettingDecidesReads : Prop :=
  ∀ (i : Instr) (s : State),
    (ReadsWritten i s → ∀ u : Unwritten, execUnder u i s = exec i s)
    ∧ (s.busy = false → (∃ a, Reads i s a ∧ s.written a = false) →
        execUnder .refuse i s = .refused .unwrittenByte)

/-- A step under either setting runs the decoded instruction under that setting, and the model's `exec` and `step` are the
instance `draw` (log entry 2); so on written bytes a step does the same under both (R6, R24, R154). -/
def Obligations.StepUnderEitherSetting : Prop :=
  (∀ (u : Unwritten) (s : State) (w : PortWord) (rest : List HostInput) (i : Instr),
    s.inputs = .txn w :: rest → decode w = .ok i →
      stepUnder u s = execUnder u i { s with inputs := rest }
      ∧ (ReadsWritten i s → stepUnder u s = step s))
  ∧ (∀ (u : Unwritten) (s : State), s.inputs.head? = some .rst ∨ s.inputs = [] → stepUnder u s = step s)
  ∧ (∀ (i : Instr) (s : State), execUnder .draw i s = exec i s)
  ∧ ∀ s : State, stepUnder .draw s = step s
end

