-- ==== Sys2Proof/Laws/State.lean ====
section
/-! SUPPORT. What each named update does to each field of the state: one lemma per field per update, so that no proof
unfolds an update. -/

namespace Sys2Proof.Machine

/-! `memWrite` -/

@[simp] theorem State.memWrite_seq (s : State) (a n v : Nat) : (s.memWrite a n v).seq = s.seq := rfl
@[simp] theorem State.memWrite_csum (s : State) (a n v : Nat) : (s.memWrite a n v).csum = s.csum := rfl
@[simp] theorem State.memWrite_flags (s : State) (a n v : Nat) : (s.memWrite a n v).flags = s.flags := rfl
@[simp] theorem State.memWrite_rsvd (s : State) (a n v : Nat) : (s.memWrite a n v).rsvd = s.rsvd := rfl
@[simp] theorem State.memWrite_len (s : State) (a n v : Nat) : (s.memWrite a n v).len = s.len := rfl
@[simp] theorem State.memWrite_busy (s : State) (a n v : Nat) : (s.memWrite a n v).busy = s.busy := rfl
@[simp] theorem State.memWrite_code (s : State) (a n v : Nat) : (s.memWrite a n v).code = s.code := rfl
@[simp] theorem State.memWrite_calcReg (s : State) (a n v : Nat) : (s.memWrite a n v).calcReg = s.calcReg := rfl
@[simp] theorem State.memWrite_buf (s : State) (a n v : Nat) : (s.memWrite a n v).buf = Memory.writeBE s.buf a n v := rfl
@[simp] theorem State.memWrite_regRdata (s : State) (a n v : Nat) : (s.memWrite a n v).regRdata = s.regRdata := rfl
@[simp] theorem State.memWrite_bufRdata (s : State) (a n v : Nat) : (s.memWrite a n v).bufRdata = s.bufRdata := rfl
@[simp] theorem State.memWrite_inputs (s : State) (a n v : Nat) : (s.memWrite a n v).inputs = s.inputs := rfl
@[simp] theorem State.memWrite_draws (s : State) (a n v : Nat) : (s.memWrite a n v).draws = s.draws := rfl

/-! `writeByte` -/

@[simp] theorem State.writeByte_seq (s : State) (a : Nat) (d : Byte) : (s.writeByte a d).seq = s.seq := rfl
@[simp] theorem State.writeByte_csum (s : State) (a : Nat) (d : Byte) : (s.writeByte a d).csum = s.csum := rfl
@[simp] theorem State.writeByte_flags (s : State) (a : Nat) (d : Byte) : (s.writeByte a d).flags = s.flags := rfl
@[simp] theorem State.writeByte_rsvd (s : State) (a : Nat) (d : Byte) : (s.writeByte a d).rsvd = s.rsvd := rfl
@[simp] theorem State.writeByte_len (s : State) (a : Nat) (d : Byte) : (s.writeByte a d).len = s.len := rfl
@[simp] theorem State.writeByte_busy (s : State) (a : Nat) (d : Byte) : (s.writeByte a d).busy = s.busy := rfl
@[simp] theorem State.writeByte_code (s : State) (a : Nat) (d : Byte) : (s.writeByte a d).code = s.code := rfl
@[simp] theorem State.writeByte_calcReg (s : State) (a : Nat) (d : Byte) : (s.writeByte a d).calcReg = s.calcReg := rfl
@[simp] theorem State.writeByte_buf (s : State) (a : Nat) (d : Byte) : (s.writeByte a d).buf = Memory.write s.buf a d := rfl
@[simp] theorem State.writeByte_regRdata (s : State) (a : Nat) (d : Byte) : (s.writeByte a d).regRdata = s.regRdata := rfl
@[simp] theorem State.writeByte_bufRdata (s : State) (a : Nat) (d : Byte) : (s.writeByte a d).bufRdata = s.bufRdata := rfl
@[simp] theorem State.writeByte_inputs (s : State) (a : Nat) (d : Byte) : (s.writeByte a d).inputs = s.inputs := rfl
@[simp] theorem State.writeByte_draws (s : State) (a : Nat) (d : Byte) : (s.writeByte a d).draws = s.draws := rfl

/-! `drawn` -/

@[simp] theorem State.drawn_seq (s : State) : (s.drawn).seq = s.seq := rfl
@[simp] theorem State.drawn_csum (s : State) : (s.drawn).csum = s.csum := rfl
@[simp] theorem State.drawn_flags (s : State) : (s.drawn).flags = s.flags := rfl
@[simp] theorem State.drawn_rsvd (s : State) : (s.drawn).rsvd = s.rsvd := rfl
@[simp] theorem State.drawn_len (s : State) : (s.drawn).len = s.len := rfl
@[simp] theorem State.drawn_busy (s : State) : (s.drawn).busy = s.busy := rfl
@[simp] theorem State.drawn_code (s : State) : (s.drawn).code = s.code := rfl
@[simp] theorem State.drawn_calcReg (s : State) : (s.drawn).calcReg = s.calcReg := rfl
@[simp] theorem State.drawn_buf (s : State) : (s.drawn).buf = s.buf := rfl
@[simp] theorem State.drawn_regRdata (s : State) : (s.drawn).regRdata = s.regRdata := rfl
@[simp] theorem State.drawn_bufRdata (s : State) : (s.drawn).bufRdata = s.bufRdata := rfl
@[simp] theorem State.drawn_inputs (s : State) : (s.drawn).inputs = s.inputs := rfl
@[simp] theorem State.drawn_draws (s : State) : (s.drawn).draws = s.draws + 1 := rfl

/-! `start` -/

@[simp] theorem State.start_seq (s : State) : (s.start).seq = s.seq := rfl
@[simp] theorem State.start_csum (s : State) : (s.start).csum = s.csum := rfl
@[simp] theorem State.start_flags (s : State) : (s.start).flags = s.flags := rfl
@[simp] theorem State.start_rsvd (s : State) : (s.start).rsvd = s.rsvd := rfl
@[simp] theorem State.start_len (s : State) : (s.start).len = s.len := rfl
@[simp] theorem State.start_busy (s : State) : (s.start).busy = true := rfl
@[simp] theorem State.start_code (s : State) : (s.start).code = s.code := rfl
@[simp] theorem State.start_calcReg (s : State) : (s.start).calcReg = s.calcReg := rfl
@[simp] theorem State.start_buf (s : State) : (s.start).buf = s.buf := rfl
@[simp] theorem State.start_regRdata (s : State) : (s.start).regRdata = s.regRdata := rfl
@[simp] theorem State.start_bufRdata (s : State) : (s.start).bufRdata = s.bufRdata := rfl
@[simp] theorem State.start_inputs (s : State) : (s.start).inputs = s.inputs := rfl
@[simp] theorem State.start_draws (s : State) : (s.start).draws = s.draws := rfl

/-! `raise` -/

@[simp] theorem State.raise_seq (s : State) (c : StatusCode) : (s.raise c).seq = s.seq := rfl
@[simp] theorem State.raise_csum (s : State) (c : StatusCode) : (s.raise c).csum = s.csum := rfl
@[simp] theorem State.raise_flags (s : State) (c : StatusCode) : (s.raise c).flags = s.flags := rfl
@[simp] theorem State.raise_rsvd (s : State) (c : StatusCode) : (s.raise c).rsvd = s.rsvd := rfl
@[simp] theorem State.raise_len (s : State) (c : StatusCode) : (s.raise c).len = s.len := rfl
@[simp] theorem State.raise_busy (s : State) (c : StatusCode) : (s.raise c).busy = false := rfl
@[simp] theorem State.raise_code (s : State) (c : StatusCode) : (s.raise c).code = c := rfl
@[simp] theorem State.raise_calcReg (s : State) (c : StatusCode) : (s.raise c).calcReg = s.calcReg := rfl
@[simp] theorem State.raise_buf (s : State) (c : StatusCode) : (s.raise c).buf = s.buf := rfl
@[simp] theorem State.raise_regRdata (s : State) (c : StatusCode) : (s.raise c).regRdata = s.regRdata := rfl
@[simp] theorem State.raise_bufRdata (s : State) (c : StatusCode) : (s.raise c).bufRdata = s.bufRdata := rfl
@[simp] theorem State.raise_inputs (s : State) (c : StatusCode) : (s.raise c).inputs = s.inputs := rfl
@[simp] theorem State.raise_draws (s : State) (c : StatusCode) : (s.raise c).draws = s.draws := rfl

/-! `done` -/

@[simp] theorem State.done_seq (s : State) : (s.done).seq = s.seq := rfl
@[simp] theorem State.done_csum (s : State) : (s.done).csum = s.csum := rfl
@[simp] theorem State.done_flags (s : State) : (s.done).flags = s.flags := rfl
@[simp] theorem State.done_rsvd (s : State) : (s.done).rsvd = s.rsvd := rfl
@[simp] theorem State.done_len (s : State) : (s.done).len = s.len := rfl
@[simp] theorem State.done_busy (s : State) : (s.done).busy = false := rfl
@[simp] theorem State.done_code (s : State) : (s.done).code = .ok := rfl
@[simp] theorem State.done_calcReg (s : State) : (s.done).calcReg = s.calcReg := rfl
@[simp] theorem State.done_buf (s : State) : (s.done).buf = s.buf := rfl
@[simp] theorem State.done_regRdata (s : State) : (s.done).regRdata = s.regRdata := rfl
@[simp] theorem State.done_bufRdata (s : State) : (s.done).bufRdata = s.bufRdata := rfl
@[simp] theorem State.done_inputs (s : State) : (s.done).inputs = s.inputs := rfl
@[simp] theorem State.done_draws (s : State) : (s.done).draws = s.draws := rfl

/-! `takeReset` -/

@[simp] theorem State.takeReset_seq (s : State) : (s.takeReset).seq = 0 := rfl
@[simp] theorem State.takeReset_csum (s : State) : (s.takeReset).csum = 0 := rfl
@[simp] theorem State.takeReset_flags (s : State) : (s.takeReset).flags = 0 := rfl
@[simp] theorem State.takeReset_rsvd (s : State) : (s.takeReset).rsvd = 0 := rfl
@[simp] theorem State.takeReset_len (s : State) : (s.takeReset).len = 0 := rfl
@[simp] theorem State.takeReset_busy (s : State) : (s.takeReset).busy = false := rfl
@[simp] theorem State.takeReset_code (s : State) : (s.takeReset).code = .ok := rfl
@[simp] theorem State.takeReset_calcReg (s : State) : (s.takeReset).calcReg = 0 := rfl
@[simp] theorem State.takeReset_buf (s : State) : (s.takeReset).buf = [] := rfl
@[simp] theorem State.takeReset_regRdata (s : State) : (s.takeReset).regRdata = 0 := rfl
@[simp] theorem State.takeReset_bufRdata (s : State) : (s.takeReset).bufRdata = 0 := rfl
@[simp] theorem State.takeReset_inputs (s : State) : (s.takeReset).inputs = s.inputs := rfl
@[simp] theorem State.takeReset_draws (s : State) : (s.takeReset).draws = s.draws := rfl

/-! `loadHeader` -/

@[simp] theorem State.loadHeader_seq (s : State) : (s.loadHeader).seq = BitVec.ofNat 32 (s.memRead 0 4) := rfl
@[simp] theorem State.loadHeader_csum (s : State) : (s.loadHeader).csum = BitVec.ofNat 16 (s.memRead 4 2) := rfl
@[simp] theorem State.loadHeader_flags (s : State) : (s.loadHeader).flags = BitVec.ofNat 8 (s.memRead 6 1) := rfl
@[simp] theorem State.loadHeader_rsvd (s : State) : (s.loadHeader).rsvd = BitVec.ofNat 8 (s.memRead 7 1) := rfl
@[simp] theorem State.loadHeader_len (s : State) : (s.loadHeader).len = s.len := rfl
@[simp] theorem State.loadHeader_busy (s : State) : (s.loadHeader).busy = s.busy := rfl
@[simp] theorem State.loadHeader_code (s : State) : (s.loadHeader).code = s.code := rfl
@[simp] theorem State.loadHeader_calcReg (s : State) : (s.loadHeader).calcReg = s.calcReg := rfl
@[simp] theorem State.loadHeader_buf (s : State) : (s.loadHeader).buf = s.buf := rfl
@[simp] theorem State.loadHeader_regRdata (s : State) : (s.loadHeader).regRdata = s.regRdata := rfl
@[simp] theorem State.loadHeader_bufRdata (s : State) : (s.loadHeader).bufRdata = s.bufRdata := rfl
@[simp] theorem State.loadHeader_inputs (s : State) : (s.loadHeader).inputs = s.inputs := rfl
@[simp] theorem State.loadHeader_draws (s : State) : (s.loadHeader).draws = s.draws := rfl

/-! `storeChecksum` -/

@[simp] theorem State.storeChecksum_seq (s : State) : (s.storeChecksum).seq = s.seq := rfl
@[simp] theorem State.storeChecksum_csum (s : State) : (s.storeChecksum).csum = checksum (s.memWrite 4 2 0).packet := rfl
@[simp] theorem State.storeChecksum_flags (s : State) : (s.storeChecksum).flags = s.flags := rfl
@[simp] theorem State.storeChecksum_rsvd (s : State) : (s.storeChecksum).rsvd = s.rsvd := rfl
@[simp] theorem State.storeChecksum_len (s : State) : (s.storeChecksum).len = s.len := rfl
@[simp] theorem State.storeChecksum_busy (s : State) : (s.storeChecksum).busy = s.busy := rfl
@[simp] theorem State.storeChecksum_code (s : State) : (s.storeChecksum).code = s.code := rfl
@[simp] theorem State.storeChecksum_calcReg (s : State) : (s.storeChecksum).calcReg = checksum (s.memWrite 4 2 0).packet := rfl
@[simp] theorem State.storeChecksum_buf (s : State) : (s.storeChecksum).buf = Memory.writeBE (Memory.writeBE s.buf 4 2 0) 4 2 (checksum (s.memWrite 4 2 0).packet).toNat := rfl
@[simp] theorem State.storeChecksum_regRdata (s : State) : (s.storeChecksum).regRdata = s.regRdata := rfl
@[simp] theorem State.storeChecksum_bufRdata (s : State) : (s.storeChecksum).bufRdata = s.bufRdata := rfl
@[simp] theorem State.storeChecksum_inputs (s : State) : (s.storeChecksum).inputs = s.inputs := rfl
@[simp] theorem State.storeChecksum_draws (s : State) : (s.storeChecksum).draws = s.draws := rfl

/-! `pushWord` -/

@[simp] theorem State.pushWord_seq (s : State) (w : PortWord) : (s.pushWord w).seq = s.seq := rfl
@[simp] theorem State.pushWord_csum (s : State) (w : PortWord) : (s.pushWord w).csum = s.csum := rfl
@[simp] theorem State.pushWord_flags (s : State) (w : PortWord) : (s.pushWord w).flags = s.flags := rfl
@[simp] theorem State.pushWord_rsvd (s : State) (w : PortWord) : (s.pushWord w).rsvd = s.rsvd := rfl
@[simp] theorem State.pushWord_len (s : State) (w : PortWord) : (s.pushWord w).len = s.len := rfl
@[simp] theorem State.pushWord_busy (s : State) (w : PortWord) : (s.pushWord w).busy = s.busy := rfl
@[simp] theorem State.pushWord_code (s : State) (w : PortWord) : (s.pushWord w).code = s.code := rfl
@[simp] theorem State.pushWord_calcReg (s : State) (w : PortWord) : (s.pushWord w).calcReg = s.calcReg := rfl
@[simp] theorem State.pushWord_buf (s : State) (w : PortWord) : (s.pushWord w).buf = s.buf := rfl
@[simp] theorem State.pushWord_regRdata (s : State) (w : PortWord) : (s.pushWord w).regRdata = s.regRdata := rfl
@[simp] theorem State.pushWord_bufRdata (s : State) (w : PortWord) : (s.pushWord w).bufRdata = s.bufRdata := rfl
@[simp] theorem State.pushWord_inputs (s : State) (w : PortWord) : (s.pushWord w).inputs = .txn w :: s.inputs := rfl
@[simp] theorem State.pushWord_draws (s : State) (w : PortWord) : (s.pushWord w).draws = s.draws := rfl

end Sys2Proof.Machine
end

