-- ==== Sys2Proof/Laws/Memory.lean ====
section
/-! SUPPORT. The laws of the buffer: read after write, and the canonical form. -/

namespace Sys2Proof.Machine

theorem Memory.read_write (m : Memory) (a b : Nat) (d : Byte) :
    Memory.read (Memory.write m a d) b = if b = a then some d else Memory.read m b := by
  induction m with
  | nil => simp [Memory.write, Memory.read, eq_comm]
  | cons e m ih =>
    obtain ⟨k, x⟩ := e
    simp only [Memory.write]
    split_ifs with h1 h2 h3 h4 <;> simp only [Memory.read, ih] <;> split_ifs <;> first | rfl | omega

@[simp] theorem Memory.read_write_same (m : Memory) (a : Nat) (d : Byte) :
    Memory.read (Memory.write m a d) a = some d := by simp [Memory.read_write]

theorem Memory.read_write_other (m : Memory) {a b : Nat} (d : Byte) (h : b ≠ a) :
    Memory.read (Memory.write m a d) b = Memory.read m b := by simp [Memory.read_write, h]

/-- What a big-endian store leaves at every offset. -/
theorem Memory.read_writeBE (m : Memory) (a n v b : Nat) :
    Memory.read (Memory.writeBE m a n v) b =
      if a ≤ b ∧ b < a + n then some (BitVec.ofNat 8 (v >>> (8 * (a + n - 1 - b))))
      else Memory.read m b := by
  induction n generalizing m a with
  | zero => rw [Memory.writeBE, if_neg (by omega)]
  | succ n ih =>
    rw [Memory.writeBE, ih, Memory.read_write]
    by_cases hb : b = a
    · subst hb
      rw [if_neg (by omega), if_pos rfl, if_pos (by omega)]
      congr 3
      omega
    · by_cases hr : a ≤ b ∧ b < a + (n + 1)
      · have h1 : a + 1 ≤ b ∧ b < a + 1 + n := by omega
        have h2 : a + 1 + n - 1 - b = a + (n + 1) - 1 - b := by omega
        rw [if_pos h1, if_pos hr, h2]
      · have h1 : ¬(a + 1 ≤ b ∧ b < a + 1 + n) := by omega
        rw [if_neg h1, if_neg hb, if_neg hr]

/-- The offsets of a buffer after a write: the written one and the old ones. -/
theorem Memory.mem_write {m : Memory} {a : Nat} {d : Byte} {e : Host.Cell} (h : e ∈ Memory.write m a d) :
    e = (a, d) ∨ e ∈ m := by
  induction m with
  | nil => simpa [Memory.write] using h
  | cons x m ih =>
    obtain ⟨k, b⟩ := x
    simp only [Memory.write] at h
    split_ifs at h with h1 h2
    · simpa using h
    · simp only [List.mem_cons] at h ⊢
      exact h.imp_right .inr
    · simp only [List.mem_cons] at h ⊢
      rcases h with h | h
      · exact .inr (.inl h)
      · exact (ih h).imp_right .inr

/-- A write inside the buffer keeps the canonical form. -/
theorem Memory.write_wf {m : Memory} {a : Nat} (d : Byte) (h : Memory.wf m) (ha : a < 1024) :
    Memory.wf (Memory.write m a d) := by
  refine ⟨?_, fun e he => ?_⟩
  · obtain ⟨hp, -⟩ := h
    induction m with
    | nil => simp [Memory.write]
    | cons x m ih =>
      obtain ⟨k, b⟩ := x
      obtain ⟨hk, hm⟩ := List.pairwise_cons.1 hp
      simp only [Memory.write]
      split_ifs with h1 h2
      · refine List.pairwise_cons.2 ⟨fun e he => ?_, hp⟩
        rcases List.mem_cons.1 he with rfl | he
        · exact h1
        · exact h1.trans (hk e he)
      · subst h2
        exact List.pairwise_cons.2 ⟨hk, hm⟩
      · refine List.pairwise_cons.2 ⟨fun e he => ?_, ih hm⟩
        rcases Memory.mem_write he with rfl | he
        · show k < a
          omega
        · exact hk e he
  · rcases Memory.mem_write he with rfl | he
    · exact ha
    · exact h.2 e he

/-- A big-endian store inside the buffer keeps the canonical form. -/
theorem Memory.writeBE_wf {m : Memory} {a n : Nat} (v : Nat) (h : Memory.wf m) (ha : a + n ≤ 1024) :
    Memory.wf (Memory.writeBE m a n v) := by
  induction n generalizing m a with
  | zero => exact h
  | succ n ih => exact ih (Memory.write_wf _ h (by omega)) (by omega)

theorem Memory.nil_wf : Memory.wf [] := by simp [Memory.wf]

/-! ### Bytes and packets -/

@[simp] theorem Memory.length_bytes (m : Memory) (d a n : Nat) : (Memory.bytes m d a n).length = n := by
  induction n generalizing a with
  | zero => rfl
  | succ n ih => simp [Memory.bytes, ih]

theorem Memory.getElem?_bytes (m : Memory) (d a n i : Nat) :
    (Memory.bytes m d a n)[i]? = if i < n then some (Memory.byteAt m d (a + i)) else none := by
  induction n generalizing a i with
  | zero => simp [Memory.bytes]
  | succ n ih =>
    cases i with
    | zero => simp [Memory.bytes]
    | succ i =>
      simp only [Memory.bytes, List.getElem?_cons_succ, ih, Nat.add_lt_add_iff_right]
      have : a + 1 + i = a + (i + 1) := by omega
      rw [this]

@[simp] theorem State.length_bytes (s : State) (a n : Nat) : (s.bytes a n).length = n :=
  Memory.length_bytes _ _ _ _

@[simp] theorem State.length_packet (s : State) : s.packet.length = s.len.toNat := s.length_bytes 0 _

theorem State.getElem?_bytes (s : State) (a n i : Nat) :
    (s.bytes a n)[i]? = if i < n then some (s.byteAt (a + i)) else none :=
  Memory.getElem?_bytes _ _ _ _ _

theorem State.getElem?_packet (s : State) (i : Nat) :
    s.packet[i]? = if i < s.len.toNat then some (s.byteAt i) else none := by
  simp [State.packet, State.getElem?_bytes]

/-- A written byte reads as written, whatever the free values are. -/
theorem State.byteAt_of_read {s : State} {a : Nat} {b : Byte} (h : Memory.read s.buf a = some b) :
    s.byteAt a = b := by simp [State.byteAt, Memory.byteAt, h]

theorem State.byteAt_of_unwritten {s : State} {a : Nat} (h : Memory.read s.buf a = none) :
    s.byteAt a = Config.freeByte s.draws a := by simp [State.byteAt, Memory.byteAt, h]

/-- A packet depends on `LEN` and on the bytes below it. -/
theorem State.packet_congr {s t : State} (hl : t.len = s.len)
    (h : ∀ a, a < s.len.toNat → t.byteAt a = s.byteAt a) : t.packet = s.packet := by
  apply List.ext_getElem?
  intro i
  rw [State.getElem?_packet, State.getElem?_packet, hl]
  split
  · rename_i hi
    rw [h i hi]
  · rfl

/-- A written byte reads the same in every state whose buffer holds it. -/
theorem State.byteAt_of_written {s t : State} {a : Nat} (hw : s.written a = true)
    (h : Memory.read t.buf a = Memory.read s.buf a) : t.byteAt a = s.byteAt a := by
  obtain ⟨b, hb⟩ := Option.isSome_iff_exists.1 hw
  rw [State.byteAt_of_read hb, State.byteAt_of_read (h.trans hb)]

end Sys2Proof.Machine
end

