-- ==== Sys2Proof/Laws/Ops.lean ====
section
/-! SUPPORT. The shared operations of `Machine/Ops.lean`, each with what it can do said once; and the four field loads of
a header and the fields a header stores, as bytes. -/

namespace Sys2Proof.Machine

/-! ### Guards -/

theorem State.whenIdle_of_idle {s : State} (h : s.busy = false) (k : Result) : s.whenIdle k = k := by
  simp [State.whenIdle, h]

theorem State.whenIdle_of_busy {s : State} (h : s.busy = true) (k : Result) :
    s.whenIdle k = .refused .portWhileBusy := by simp [State.whenIdle, h]

/-- If a guarded operation answers a next state, the block was idle. -/
theorem State.whenIdle_next {s t : State} {k : Result} (h : s.whenIdle k = .next t) :
    s.busy = false ∧ k = .next t := by
  cases hb : s.busy <;> simp_all [State.whenIdle]

/-- Under `UNWRITTEN = draw` the reading guard lets every read go on: an unwritten byte is a free value (`10_state.md` R24, `draw`). -/
@[simp] theorem State.whenWrittenUnder_draw (s : State) (offsets : List Nat) (k : Result) :
    s.whenWrittenUnder .draw offsets k = k := rfl

/-- Under `UNWRITTEN = refuse` the guard lets through exactly the reads of written bytes. -/
theorem State.whenWrittenUnder_refuse (s : State) (offsets : List Nat) (k : Result) :
    s.whenWrittenUnder .refuse offsets k =
      if ∀ a ∈ offsets, s.written a = true then k else .refused .unwrittenByte := by
  simp [State.whenWrittenUnder, List.all_eq_true]

/-- Where every byte has been written, the reading guard lets the read go on under either setting. -/
theorem State.whenWrittenUnder_of_written {s : State} {offsets : List Nat} (h : ∀ a ∈ offsets, s.written a = true)
    (u : Unwritten) (k : Result) : s.whenWrittenUnder u offsets k = k := by
  cases u
  · rw [State.whenWrittenUnder_refuse, if_pos h]
  · rfl

/-- Under `UNWRITTEN = refuse` a read of an unwritten byte is refused. -/
theorem State.whenWrittenUnder_refuse_of_unwritten {s : State} {offsets : List Nat} {a : Nat} (ha : a ∈ offsets)
    (h : s.written a = false) (k : Result) : s.whenWrittenUnder .refuse offsets k = .refused .unwrittenByte := by
  rw [State.whenWrittenUnder_refuse, if_neg fun all => Bool.false_ne_true (h.symm.trans (all a ha))]

theorem State.whenLengthOk_of_ok {s : State} (h : s.lengthOk) (k : Result) : s.whenLengthOk k = k := by
  obtain ⟨h1, h2⟩ := h
  simp only [Config.hdrLen, Config.bufSize] at h1 h2
  simp [State.whenLengthOk, Nat.not_lt.2 h1, Nat.not_lt.2 h2]

theorem State.whenLengthOk_of_long {s : State} (h : 1024 < s.len.toNat) (k : Result) :
    s.whenLengthOk k = .next (s.raise .lenError) := by simp [State.whenLengthOk, h]

theorem State.whenLengthOk_of_short {s : State} (h : s.len.toNat < 8) (k : Result) :
    s.whenLengthOk k = .next (s.raise .malformedHeader) := by
  have : ¬ 1024 < s.len.toNat := by omega
  simp [State.whenLengthOk, h, this]

/-- The three outcomes of the length checks. -/
theorem State.whenLengthOk_cases (s : State) (k : Result) :
    (1024 < s.len.toNat ∧ s.whenLengthOk k = .next (s.raise .lenError))
    ∨ (s.len.toNat < 8 ∧ s.whenLengthOk k = .next (s.raise .malformedHeader))
    ∨ (s.lengthOk ∧ s.whenLengthOk k = k) := by
  rcases Nat.lt_or_ge 1024 s.len.toNat with h | h
  · exact .inl ⟨h, s.whenLengthOk_of_long h k⟩
  · rcases Nat.lt_or_ge s.len.toNat 8 with h' | h'
    · exact .inr (.inl ⟨h', s.whenLengthOk_of_short h' k⟩)
    · exact .inr (.inr ⟨⟨h', h⟩, s.whenLengthOk_of_ok ⟨h', h⟩ k⟩)

/-! ### Big-endian values -/

/-- Appending a byte below is shifting by 8 and adding it. -/
theorem toNat_append_byte {n : Nat} (x : BitVec n) (b : Byte) :
    (x ++ b).toNat = (x.toNat <<< 8) + b.toNat := by
  rw [BitVec.toNat_append, Nat.shiftLeft_eq, Nat.mul_comm, ← Nat.two_pow_add_eq_or_of_lt b.isLt]

theorem ofNat_beNat4 (b0 b1 b2 b3 : Byte) : BitVec.ofNat 32 (beNat [b0, b1, b2, b3]) = b0 ++ b1 ++ b2 ++ b3 := by
  have : beNat [b0, b1, b2, b3] = (b0 ++ b1 ++ b2 ++ b3).toNat := by
    simp [beNat, toNat_append_byte]
  rw [this, BitVec.ofNat_toNat, BitVec.setWidth_eq]

theorem ofNat_beNat2 (b0 b1 : Byte) : BitVec.ofNat 16 (beNat [b0, b1]) = b0 ++ b1 := by
  have : beNat [b0, b1] = (b0 ++ b1).toNat := by simp [beNat, toNat_append_byte]
  rw [this, BitVec.ofNat_toNat, BitVec.setWidth_eq]

theorem beNat2 (b0 b1 : Byte) : beNat [b0, b1] = (b0 ++ b1).toNat := by simp [beNat, toNat_append_byte]

theorem ofNat_beNat1 (b : Byte) : BitVec.ofNat 8 (beNat [b]) = b := by simp [beNat]

/-- The bytes a big-endian store of a bit vector leaves are its 8-bit fields. -/
theorem ofNat_shiftRight_toNat {n : Nat} (x : BitVec n) (k : Nat) :
    BitVec.ofNat 8 (x.toNat >>> k) = x.extractLsb' k 8 := by
  apply BitVec.eq_of_toNat_eq
  simp [BitVec.extractLsb'_toNat]

end Sys2Proof.Machine
end

