-- ==== Sys2Proof/Laws/Fields.lean ====
section
/-! SUPPORT. Fields of appended bit vectors, and a word or half as its bytes. -/

namespace Sys2Proof.Machine

/-- A field of an append that lies in the high part. -/
theorem field_high {n m : Nat} (x : BitVec n) (y : BitVec m) (k j : Nat) :
    (x ++ y).extractLsb' (m + k) j = x.extractLsb' k j := by
  apply BitVec.eq_of_getLsbD_eq
  intro i hi
  simp [BitVec.getLsbD_append, hi, Nat.add_assoc]

/-- The field of an append that is the low part. -/
theorem field_low {n m : Nat} (x : BitVec n) (y : BitVec m) : (x ++ y).extractLsb' 0 m = y := by
  apply BitVec.eq_of_getLsbD_eq
  intro i hi
  simp [BitVec.getLsbD_append, hi]

/-- The field that is all of it. -/
theorem field_all {n : Nat} (x : BitVec n) : x.extractLsb' 0 n = x := by
  apply BitVec.eq_of_getLsbD_eq
  intro i hi
  simp [hi]

/-- A word is its four bytes. -/
theorem word_of_bytes (x : Word) :
    x.extractLsb' 24 8 ++ x.extractLsb' 16 8 ++ x.extractLsb' 8 8 ++ x.extractLsb' 0 8 = x := by
  apply BitVec.eq_of_toNat_eq
  have := x.isLt
  simp only [toNat_append_byte, BitVec.extractLsb'_toNat, Nat.shiftLeft_eq, Nat.shiftRight_eq_div_pow]
  omega

/-- A half is its two bytes. -/
theorem half_of_bytes (x : Half) : x.extractLsb' 8 8 ++ x.extractLsb' 0 8 = x := by
  apply BitVec.eq_of_toNat_eq
  have := x.isLt
  simp only [toNat_append_byte, BitVec.extractLsb'_toNat, Nat.shiftLeft_eq, Nat.shiftRight_eq_div_pow]
  omega

/-- The bytes of a word made of four bytes. -/
theorem bytes_of_word (b0 b1 b2 b3 : Byte) :
    (b0 ++ b1 ++ b2 ++ b3).extractLsb' 24 8 = b0 ∧ (b0 ++ b1 ++ b2 ++ b3).extractLsb' 16 8 = b1
    ∧ (b0 ++ b1 ++ b2 ++ b3).extractLsb' 8 8 = b2 ∧ (b0 ++ b1 ++ b2 ++ b3).extractLsb' 0 8 = b3 :=
  ⟨(field_high (b0 ++ b1 ++ b2) b3 16 8).trans <| (field_high (b0 ++ b1) b2 8 8).trans <|
      (field_high b0 b1 0 8).trans (field_all b0),
    (field_high (b0 ++ b1 ++ b2) b3 8 8).trans <| (field_high (b0 ++ b1) b2 0 8).trans (field_low b0 b1),
    (field_high (b0 ++ b1 ++ b2) b3 0 8).trans (field_low (b0 ++ b1) b2),
    field_low (b0 ++ b1 ++ b2) b3⟩

/-- The bytes of a half made of two bytes. -/
theorem bytes_of_half (b0 b1 : Byte) :
    (b0 ++ b1).extractLsb' 8 8 = b0 ∧ (b0 ++ b1).extractLsb' 0 8 = b1 :=
  ⟨(field_high b0 b1 0 8).trans (field_all b0), field_low b0 b1⟩

/-- The low bits of a vector are its truncation. -/
theorem low_bits {m : Nat} (v : BitVec m) (n : Nat) : v.extractLsb' 0 n = v.setWidth n := by
  apply BitVec.eq_of_getLsbD_eq
  intro i hi
  simp [hi]

end Sys2Proof.Machine
end

