-- ==== Sys2Proof/Laws/Decode.lean ====
section
/-! SUPPORT. The decoder on whole patterns of each format, and the fields of the patterns the encoder makes. -/

namespace Sys2Proof

open Sys2Proof.Machine

theorem decode_of_cmd8 (c : Byte) : decode (.of c) = .ok (decodeCmd8 c) := by
  simp only [PortWord.of, decode, formatBits, BitVec.ofNat_toNat, BitVec.setWidth_eq]
  rw [if_pos c.isLt]

theorem decode_of_bufPort (w : BitVec 20) : decode (.of w) = decodeBufPort w := by
  simp only [PortWord.of, decode, formatBits, BitVec.ofNat_toNat, BitVec.setWidth_eq]
  rw [if_pos w.isLt]

theorem decode_of_regPort (w : BitVec 38) : decode (.of w) = decodeRegPort w := by
  simp only [PortWord.of, decode, formatBits, BitVec.ofNat_toNat, BitVec.setWidth_eq]
  rw [if_pos w.isLt]

theorem decode_of_hdr64 (w : BitVec 64) : decode (.of w) = decodeHdr64 w := by
  simp only [PortWord.of, decode, formatBits, BitVec.ofNat_toNat, BitVec.setWidth_eq]
  rw [if_pos w.isLt]

/-- The fields of a BUFPORT20 pattern. -/
theorem bufPort_fields (t : BitVec 2) (a : Offset) (d : Byte) :
    (t ++ a ++ d).extractLsb' 18 2 = t ∧ (t ++ a ++ d).extractLsb' 8 10 = a
    ∧ (t ++ a ++ d).extractLsb' 0 8 = d :=
  ⟨(field_high (t ++ a) d 10 2).trans <| (field_high t a 0 2).trans (field_all t),
    (field_high (t ++ a) d 0 10).trans (field_low t a), field_low (t ++ a) d⟩

/-- The fields of a REGPORT38 pattern. -/
theorem regPort_fields (t : BitVec 2) (r : RegNum) (v : Word) :
    (t ++ r ++ v).extractLsb' 36 2 = t ∧ (t ++ r ++ v).extractLsb' 32 4 = r
    ∧ (t ++ r ++ v).extractLsb' 0 32 = v :=
  ⟨(field_high (t ++ r) v 4 2).trans <| (field_high t r 0 2).trans (field_all t),
    (field_high (t ++ r) v 0 4).trans (field_low t r), field_low (t ++ r) v⟩

/-- The fields of a header word. -/
theorem headerWord_fields (seq : Word) (csum : Half) (fs : BitVec 3) (mbz : BitVec 13) :
    (headerWord seq csum fs mbz).extractLsb' 32 32 = seq
    ∧ (headerWord seq csum fs mbz).extractLsb' 16 16 = csum
    ∧ (headerWord seq csum fs mbz).extractLsb' 13 3 = fs
    ∧ (headerWord seq csum fs mbz).extractLsb' 0 13 = mbz :=
  ⟨(field_high (seq ++ csum ++ fs) mbz 19 32).trans <| (field_high (seq ++ csum) fs 16 32).trans <|
      (field_high seq csum 0 32).trans (field_all seq),
    (field_high (seq ++ csum ++ fs) mbz 3 16).trans <| (field_high (seq ++ csum) fs 0 16).trans (field_low seq csum),
    (field_high (seq ++ csum ++ fs) mbz 0 3).trans (field_low (seq ++ csum) fs),
    field_low (seq ++ csum ++ fs) mbz⟩

end Sys2Proof
end

