-- ==== Sys2Proof/Laws/Exec.lean ====
section
/-! SUPPORT. What an issued command and an instruction can do, said once: the inversion lemmas that claims about next
states cite instead of unfolding the meanings. -/

namespace Sys2Proof.Machine

/-- A code with a given number. -/
theorem code_eq {c : Byte} {n : Nat} (h : c.toNat = n) : c = BitVec.ofNat 8 n := by
  apply BitVec.eq_of_toNat_eq
  rw [BitVec.toNat_ofNat, ← h, Nat.mod_eq_of_lt c.isLt]

/-- Everything an issued command can do, if it answers a next state: one case for each command's normal end, and one for
an end on a bad code or length, which changes the status alone. -/
theorem issue_cases {c : Byte} {s t : State} (h : issue c s = .next t) :
    (∃ e, (e = .badCmd ∨ e = .lenError ∨ e = .malformedHeader) ∧ t = { s with code := e, busy := false })
    ∨ (c = 1 ∧ ∃ m, t = { s with buf := m, code := .ok, busy := false }
        ∧ (Memory.wf s.buf → Memory.wf m) ∧ ∀ a, 8 ≤ a → Memory.read m a = Memory.read s.buf a)
    ∨ (c = 2 ∧ t = { s.loadHeader with code := .ok, busy := false, draws := s.draws + 1 })
    ∨ (c = 3 ∧ t = { s with calcReg := checksum s.packet, code := .ok, busy := false, draws := s.draws + 1 })
    ∨ (c = 4 ∧ ∃ m x, t = { s with buf := m, csum := x, calcReg := x, code := .ok, busy := false,
                                    draws := s.draws + 1 }
        ∧ (Memory.wf s.buf → Memory.wf m)
        ∧ ∀ a, a ≠ 4 → a ≠ 5 → Memory.read m a = Memory.read s.buf a)
    ∨ (c = 5 ∧ ∃ e, (e = .ok ∨ e = .checksumMismatch)
        ∧ t = { s with calcReg := checksum s.packet, code := e, busy := false, draws := s.draws + 1 }) := by
  have checks : ∀ k, s.start.whenLengthOk k = .next t →
      (∃ e, (e = .badCmd ∨ e = .lenError ∨ e = .malformedHeader) ∧ t = { s with code := e, busy := false })
      ∨ k = .next t := by
    intro k hk
    rcases s.start.whenLengthOk_cases k with h | h | h <;> rw [h.2] at hk
    · injection hk with hk
      exact .inl ⟨.lenError, by decide, hk.symm⟩
    · injection hk with hk
      exact .inl ⟨.malformedHeader, by decide, hk.symm⟩
    · exact .inr hk
  unfold issue issueUnder at h
  split at h <;> rename_i hc
  · injection h with h
    refine .inr (.inl ⟨code_eq hc, _, h.symm, fun w => ?_, fun a ha => ?_⟩)
    · exact Memory.writeBE_wf _ (Memory.writeBE_wf _ (Memory.writeBE_wf _
        (Memory.writeBE_wf _ w (by omega)) (by omega)) (by omega)) (by omega)
    · simp only [State.memWrite_buf, State.start_buf, Memory.read_writeBE]
      rw [if_neg (by omega), if_neg (by omega), if_neg (by omega), if_neg (by omega)]
  · refine (checks _ h).imp id fun h => ?_
    injection h with h
    exact .inr (.inl ⟨code_eq hc, h.symm⟩)
  · refine (checks _ h).imp id fun h => ?_
    injection h with h
    exact .inr (.inr (.inl ⟨code_eq hc, h.symm⟩))
  · refine (checks _ h).imp id fun h => ?_
    injection h with h
    refine .inr (.inr (.inr (.inl ⟨code_eq hc, _, _, h.symm, fun w => ?_, fun a h4 h5 => ?_⟩)))
    · exact Memory.writeBE_wf _ (Memory.writeBE_wf _ w (by omega)) (by omega)
    · show Memory.read (Memory.writeBE (Memory.writeBE s.buf 4 2 0) 4 2 _) a = _
      rw [Memory.read_writeBE, Memory.read_writeBE, if_neg (by omega), if_neg (by omega)]
  · refine (checks _ h).imp id fun h => ?_
    rw [State.whenWrittenUnder_draw] at h
    simp only at h
    split at h <;> injection h with h
    · exact .inr (.inr (.inr (.inr ⟨code_eq hc, .checksumMismatch, .inr rfl, h.symm⟩)))
    · exact .inr (.inr (.inr (.inr ⟨code_eq hc, .ok, .inl rfl, h.symm⟩)))
  · injection h with h
    exact .inl ⟨.badCmd, .inl rfl, h.symm⟩

/-- A CMD8 row issues its code. -/
theorem exec_decodeCmd8 (c : Byte) (s : State) : exec (decodeCmd8 c) s = s.whenIdle (issue c s) := by
  unfold issue issueUnder decodeCmd8
  generalize c.toNat = n
  match n with
  | 0 | 1 | 2 | 3 | 4 | 5 | n + 6 => rfl

/-- The model's `exec` is the instance of `execUnder` at `draw`. -/
theorem execUnder_draw (i : Instr) (s : State) : execUnder .draw i s = exec i s := by cases i <;> rfl

/-- The model's `step` is the instance of `stepUnder` at `draw`. -/
theorem stepUnder_draw (s : State) : stepUnder .draw s = step s := by
  rw [stepUnder, funext fun i => funext (execUnder_draw i), step]

/-- A CMD8 row issues its code, under either setting of `UNWRITTEN`. -/
theorem execUnder_decodeCmd8 (u : Unwritten) (c : Byte) (s : State) :
    execUnder u (decodeCmd8 c) s = s.whenIdle (issueUnder u c s) := by
  unfold issueUnder decodeCmd8
  generalize c.toNat = n
  match n with
  | 0 | 1 | 2 | 3 | 4 | 5 | n + 6 => rfl

/-- An instruction that issues a code runs the command, when the block is idle, under either setting. -/
theorem execUnder_of_issues {i : Instr} {c : Byte} (hi : Issues i c) (u : Unwritten) (s : State) :
    execUnder u i s = s.whenIdle (issueUnder u c s) := by
  rcases hi with rfl | ⟨v, rfl, rfl⟩
  · exact execUnder_decodeCmd8 u c s
  · rfl

/-- An instruction issues at most one code. -/
theorem Issues.code_unique {i : Instr} {c d : Byte} (hc : Issues i c) (hd : Issues i d) : c = d := by
  have pattern : ∀ b : Byte, encode (decodeCmd8 b) = .of b := fun b => by
    unfold decodeCmd8
    split <;> rename_i hb <;> simp only [encode, PortWord.of, hb] <;> rfl
  have not_wreg : ∀ (b : Byte) (v : Word), decodeCmd8 b ≠ .wreg 5#4 v := fun b v h => by
    have := congrArg PortWord.width (pattern b)
    rw [h] at this
    exact absurd this (show (38 : Nat) ≠ 8 by decide)
  rcases hc with rfl | ⟨v, rfl, rfl⟩ <;> rcases hd with hd | ⟨v', hd, rfl⟩
  · have := congrArg PortWord.bits ((pattern c).symm.trans ((congrArg encode hd).trans (pattern d)))
    exact BitVec.eq_of_toNat_eq this
  · exact absurd hd (not_wreg _ _)
  · exact absurd hd.symm (not_wreg _ _)
  · injection hd with _ hv
    rw [hv]

/-- On written bytes an issued command does the same under either setting of `UNWRITTEN`. -/
theorem issueUnder_of_written {i : Instr} {c : Byte} {s : State} (hi : Issues i c) (hr : ReadsWritten i s)
    (u : Unwritten) : issueUnder u c s = issue c s := by
  have guarded : ∀ {offsets k}, (s.lengthOk → ∀ a ∈ offsets, s.written a = true) →
      s.start.whenLengthOk (s.start.whenWrittenUnder u offsets k) =
        s.start.whenLengthOk (s.start.whenWrittenUnder .draw offsets k) := by
    intro offsets k h
    rcases s.start.whenLengthOk_cases (s.start.whenWrittenUnder u offsets k) with e | e | e
    · rw [e.2, State.whenLengthOk_of_long e.1]
    · rw [e.2, State.whenLengthOk_of_short e.1]
    · rw [State.whenWrittenUnder_of_written (s := s.start) (h e.1)]
      rfl
  unfold issue issueUnder
  split <;> rename_i hc
  · rfl
  all_goals
    first
      | rfl
      | (obtain rfl := code_eq hc
         refine guarded fun ok a ha => hr a (.inr ⟨ok, ?_⟩)
         have := ok.1
         simp only [Config.hdrLen] at this
         simp [summedOffsets] at ha)
  · exact ⟨by omega, .inl ⟨hi, ha⟩⟩
  · exact ⟨ha.1, .inr (.inl ⟨.inl hi, ha.2⟩)⟩
  · exact ⟨ha.1, .inr (.inl ⟨.inr hi, ha.2⟩)⟩
  · exact ⟨ha, .inr (.inr hi)⟩

/-- An instruction that issues a code runs the command, when the block is idle. -/
theorem exec_of_issues {i : Instr} {c : Byte} (hi : Issues i c) (s : State) :
    exec i s = s.whenIdle (issue c s) := by
  rcases hi with rfl | ⟨v, rfl, rfl⟩
  · exact exec_decodeCmd8 c s
  · rfl

/-- A packet-kind row is the receive script over some header word. -/
theorem exec_headerRow {i : Instr} (hi : isHeaderRow i = true) (s : State) :
    ∃ h, exec i s = receiveHeader h s := by
  cases i <;> first | exact absurd hi Bool.false_ne_true | exact ⟨headerWord _ _ _ _, rfl⟩

/-- The forms of an instruction that answers a next state: it issues a command, or it is a port operation, or a
packet-kind row. -/
theorem exec_cases {i : Instr} {s t : State} (hw : i.wf = true) (h : exec i s = .next t) :
    (∃ c, Issues i c ∧ s.busy = false ∧ issue c s = .next t)
    ∨ (∃ a d, i = .wbuf a d ∧ s.busy = false ∧ t = s.writeByte a.toNat d)
    ∨ (∃ a, i = .rbuf a ∧ s.busy = false ∧ t = { s with bufRdata := s.byteAt a.toNat, draws := s.draws + 1 })
    ∨ (∃ r v, i = .wreg r v ∧ r ≠ 5#4 ∧ s.busy = false ∧ t = s.writeReg r v)
    ∨ (∃ r, i = .rreg r ∧ t = { s with regRdata := s.readReg r })
    ∨ (isHeaderRow i = true ∧ s.busy = false
        ∧ ∃ w, issue 2 ((s.memWrite 0 8 w).writeReg 4#4 8#32) = .next t) := by
  have header : isHeaderRow i = true → isHeaderRow i = true ∧ s.busy = false
      ∧ ∃ w, issue 2 ((s.memWrite 0 8 w).writeReg 4#4 8#32) = .next t := by
    intro hi
    obtain ⟨w, he⟩ := exec_headerRow hi s
    obtain ⟨hb, h'⟩ := State.whenIdle_next (he ▸ h)
    exact ⟨hi, hb, w.toNat, h'⟩
  cases i with
  | encode => exact .inl ⟨1, .inl rfl, State.whenIdle_next h⟩
  | decode => exact .inl ⟨2, .inl rfl, State.whenIdle_next h⟩
  | checksum => exact .inl ⟨3, .inl rfl, State.whenIdle_next h⟩
  | setcsum => exact .inl ⟨4, .inl rfl, State.whenIdle_next h⟩
  | verify => exact .inl ⟨5, .inl rfl, State.whenIdle_next h⟩
  | badcmd c =>
    have hc : decodeCmd8 c = .badcmd c := by
      clear h header
      revert hw
      revert c
      decide
    rw [← hc, exec_decodeCmd8] at h
    exact .inl ⟨c, .inl hc.symm, State.whenIdle_next h⟩
  | wbuf a d =>
    obtain ⟨hb, h⟩ := State.whenIdle_next h
    injection h with h
    exact .inr (.inl ⟨a, d, rfl, hb, h.symm⟩)
  | rbuf a =>
    obtain ⟨hb, h⟩ := State.whenIdle_next h
    injection h with h
    exact .inr (.inr (.inl ⟨a, rfl, hb, h.symm⟩))
  | wreg r v =>
    obtain ⟨hb, h'⟩ := State.whenIdle_next h
    split at h'
    · rename_i h5
      obtain rfl : r = 5#4 := BitVec.eq_of_toNat_eq h5
      exact .inl ⟨_, .inr ⟨v, rfl, rfl⟩, hb, h'⟩
    · rename_i h5
      injection h' with h'
      exact .inr (.inr (.inr (.inl ⟨r, v, rfl, fun hr => h5 (by rw [hr]; rfl), hb, h'.symm⟩)))
  | rreg r =>
    simp only [exec, execRreg] at h
    split at h
    · cases h
    · injection h with h
      exact .inr (.inr (.inr (.inr (.inl ⟨r, rfl, h.symm⟩))))
  | connectReq | connectAck | fileReq | reqAck | data | dataAck | undefinedSynReq | undefinedSynAckReq =>
    exact .inr (.inr (.inr (.inr (.inr (header rfl)))))

/-- What a register write can do: one storage register, or nothing. -/
theorem writeReg_cases (s : State) (r : RegNum) (v : Word) :
    (r = 0#4 ∧ s.writeReg r v = { s with seq := v })
    ∨ (r = 1#4 ∧ s.writeReg r v = { s with csum := v.setWidth 16 })
    ∨ (r = 2#4 ∧ s.writeReg r v = { s with flags := v.setWidth 8 })
    ∨ (r = 4#4 ∧ s.writeReg r v = { s with len := v.setWidth 11 })
    ∨ (r ≠ 0#4 ∧ r ≠ 1#4 ∧ r ≠ 2#4 ∧ r ≠ 4#4 ∧ s.writeReg r v = s) := by
  have num : ∀ {n : Nat}, r.toNat = n → r = BitVec.ofNat 4 n := fun {n} h => by
    apply BitVec.eq_of_toNat_eq
    rw [BitVec.toNat_ofNat, ← h, Nat.mod_eq_of_lt r.isLt]
  unfold State.writeReg
  split <;> rename_i h
  · exact .inl ⟨num h, rfl⟩
  · exact .inr (.inl ⟨num h, by rw [low_bits]⟩)
  · exact .inr (.inr (.inl ⟨num h, by rw [low_bits]⟩))
  · exact .inr (.inr (.inr (.inl ⟨num h, by rw [low_bits]⟩)))
  · rename_i h0 h1 h2
    exact .inr (.inr (.inr (.inr ⟨fun e => h0 (by rw [e]; rfl), fun e => h1 (by rw [e]; rfl),
      fun e => h2 (by rw [e]; rfl), fun e => h (by rw [e]; rfl), rfl⟩)))

end Sys2Proof.Machine
end

