-- ==== Sys2Proof/Laws/PerInstr.lean ====
section
/-! SUPPORT. Facts about every instruction as syntax, one lemma per constructor.
EncodeFits: the encoder's pattern fits the width it names, which is the width of a format. -/

namespace Sys2Proof.Laws

/-- The pattern of an instruction has its format's width and no bit above it. -/
def EncodeFits.Statement (i : Instr) : Prop :=
  (encode i).bits < 2 ^ (encode i).width ∧ formatBits (encode i).width = (encode i).width

theorem EncodeFits.encode : EncodeFits.Statement .encode := ⟨BitVec.isLt _, rfl⟩
theorem EncodeFits.decode : EncodeFits.Statement .decode := ⟨BitVec.isLt _, rfl⟩
theorem EncodeFits.checksum : EncodeFits.Statement .checksum := ⟨BitVec.isLt _, rfl⟩
theorem EncodeFits.setcsum : EncodeFits.Statement .setcsum := ⟨BitVec.isLt _, rfl⟩
theorem EncodeFits.verify : EncodeFits.Statement .verify := ⟨BitVec.isLt _, rfl⟩
theorem EncodeFits.badcmd (code : Byte) : EncodeFits.Statement (.badcmd code) := ⟨BitVec.isLt _, rfl⟩
theorem EncodeFits.wbuf (a : Offset) (d : Byte) : EncodeFits.Statement (.wbuf a d) := ⟨BitVec.isLt _, rfl⟩
theorem EncodeFits.rbuf (a : Offset) : EncodeFits.Statement (.rbuf a) := ⟨BitVec.isLt _, rfl⟩
theorem EncodeFits.wreg (r : RegNum) (v : Word) : EncodeFits.Statement (.wreg r v) := ⟨BitVec.isLt _, rfl⟩
theorem EncodeFits.rreg (r : RegNum) : EncodeFits.Statement (.rreg r) := ⟨BitVec.isLt _, rfl⟩
theorem EncodeFits.connectReq (seq : Word) (csum : Half) (mbz : BitVec 13) :
    EncodeFits.Statement (.connectReq seq csum mbz) := ⟨BitVec.isLt _, rfl⟩
theorem EncodeFits.connectAck (seq : Word) (csum : Half) (mbz : BitVec 13) :
    EncodeFits.Statement (.connectAck seq csum mbz) := ⟨BitVec.isLt _, rfl⟩
theorem EncodeFits.fileReq (seq : Word) (csum : Half) (mbz : BitVec 13) :
    EncodeFits.Statement (.fileReq seq csum mbz) := ⟨BitVec.isLt _, rfl⟩
theorem EncodeFits.reqAck (seq : Word) (csum : Half) (mbz : BitVec 13) :
    EncodeFits.Statement (.reqAck seq csum mbz) := ⟨BitVec.isLt _, rfl⟩
theorem EncodeFits.data (seq : Word) (csum : Half) (mbz : BitVec 13) :
    EncodeFits.Statement (.data seq csum mbz) := ⟨BitVec.isLt _, rfl⟩
theorem EncodeFits.dataAck (seq : Word) (csum : Half) (mbz : BitVec 13) :
    EncodeFits.Statement (.dataAck seq csum mbz) := ⟨BitVec.isLt _, rfl⟩
theorem EncodeFits.undefinedSynReq (seq : Word) (csum : Half) (mbz : BitVec 13) :
    EncodeFits.Statement (.undefinedSynReq seq csum mbz) := ⟨BitVec.isLt _, rfl⟩
theorem EncodeFits.undefinedSynAckReq (seq : Word) (csum : Half) (mbz : BitVec 13) :
    EncodeFits.Statement (.undefinedSynAckReq seq csum mbz) := ⟨BitVec.isLt _, rfl⟩

end Sys2Proof.Laws
end

