-- ==== Sys2Proof/Tests/Slice0.lean ====
section
/-! SUPPORT. Tests of the model: expected values are taken from `spec/` (`95_test_vectors.md` where a vector is named) or
worked out by hand from its tables; and for each obligation with hypotheses, a theorem `witness_…` that meets them. -/

namespace Sys2Proof.Tests
open Sys2Proof.Machine

/-- The next state, if there is one. -/
def nextOf : Result → Option State
  | .next s => some s
  | _ => none

/-- Whether the answer is a given refusal. -/
def refusedWith (r : Refusal) : Result → Bool
  | .refused q => decide (q = r)
  | _ => false

/-- The instruction of a pattern. -/
def instrOf (width bits : Nat) : Option Instr := (decode ⟨width, bits⟩).toOption

/-- A state after reset into which the host has written a packet from offset 0 on and its length. -/
def holding (bs : List Byte) : State :=
  { State.reset with buf := bs.zipIdx.map (fun p => (p.2, p.1)), len := BitVec.ofNat 11 bs.length }

/-- The data packet of V-CK-05, with its checksum: payload `Hello`, odd length. -/
def hello : State :=
  holding [0x00, 0x00, 0x00, 0x01, 0xDC, 0x2C, 0x00, 0x00, 0x48, 0x65, 0x6C, 0x6C, 0x6F]

/-- The data packet of V-CK-05 as a byte sequence. -/
def helloBytes : List Byte :=
  [0x00, 0x00, 0x00, 0x01, 0xDC, 0x2C, 0x00, 0x00, 0x48, 0x65, 0x6C, 0x6C, 0x6F]

/-- The stored bytes after an operation. -/
def bytesAfter (r : Result) (a n : Nat) : Option (List (Option Byte)) :=
  (nextOf r).map fun t => (List.range' a n).map (Memory.read t.buf)

/-! ### Well-formedness: what the table does not admit is refused -/

theorem test_wf_badcmd_is_reserved_code :
    ([0x00, 0x01, 0x02, 0x03, 0x04, 0x05, 0x06, 0xFF].map fun c => Instr.wf (.badcmd c))
      = [true, false, false, false, false, false, true, true] := by decide

theorem test_wf_unclean_header_needs_lax :
    Instr.wf (.connectReq 0 0 1) = !Config.strictReserved
    ∧ Instr.wf (.connectAck 0 0 0x1000) = !Config.strictReserved
    ∧ Instr.wf (.fileReq 0 0 1) = !Config.strictReserved
    ∧ Instr.wf (.reqAck 0 0 1) = !Config.strictReserved
    ∧ Instr.wf (.data 0 0 1) = !Config.strictReserved
    ∧ Instr.wf (.dataAck 0 0 1) = !Config.strictReserved
    ∧ Instr.wf (.undefinedSynReq 0 0 1) = !Config.strictReserved
    ∧ Instr.wf (.undefinedSynAckReq 0 0 1) = !Config.strictReserved :=
  ⟨rfl, rfl, rfl, rfl, rfl, rfl, rfl, rfl⟩

theorem test_wf_clean_header : Instr.wf (.data 0xFFFFFFFF 0xFFFF 0) = true := rfl

/-! ### Decoding: words written out from `30_encoding.md` R60, R74, R77 -/

theorem test_decode_encode : instrOf 8 0b00000001 = some .encode := by decide
theorem test_decode_decode : instrOf 8 0b00000010 = some .decode := by decide
theorem test_decode_checksum : instrOf 8 0b00000011 = some .checksum := by decide
theorem test_decode_setcsum : instrOf 8 0b00000100 = some .setcsum := by decide
theorem test_decode_verify : instrOf 8 0b00000101 = some .verify := by decide
theorem test_decode_badcmd :
    instrOf 8 0b00000000 = some (.badcmd 0) ∧ instrOf 8 0b00000110 = some (.badcmd 6)
    ∧ instrOf 8 0b11111111 = some (.badcmd 0xFF) := by decide
/-- `B 008 48`, as the host drives it and as the table's whole bytes. -/
theorem test_decode_wbuf :
    instrOf 20 0b10_0000001000_01001000 = some (.wbuf 8 0x48)
    ∧ instrOf 24 0b0000_10_1000000001_00000011 = some (.wbuf 0x201 0x03) := by decide
theorem test_decode_rbuf :
    instrOf 20 0b01_1000000001_00000000 = some (.rbuf 0x201)
    ∧ instrOf 24 0b0000_01_0000000010_11111111 = some (.rbuf 2) := by decide
/-- `R 4 0000000D`. -/
theorem test_decode_wreg :
    instrOf 38 0b10_0100_00000000000000000000000000001101 = some (.wreg 4 13)
    ∧ instrOf 40 0b00_10_1000_10000000000000000000000000000001 = some (.wreg 8 0x80000001) := by decide
theorem test_decode_rreg :
    instrOf 38 0b01_0110_00000000000000000000000000000000 = some (.rreg 6) := by decide
/-- The header of V-CK-01 with its checksum. -/
theorem test_decode_connectReq : decode ⟨64, 0x000000007FFF8000⟩ = .ok (.connectReq 0 0x7FFF 0) := rfl
theorem test_decode_connectAck : decode ⟨64, 0x00000000C384C000⟩ = .ok (.connectAck 0 0xC384 0) := rfl
theorem test_decode_fileReq : decode ⟨64, 0x0000000096582000⟩ = .ok (.fileReq 0 0x9658 0) := rfl
theorem test_decode_reqAck : decode ⟨64, 0x0000000092EB6000⟩ = .ok (.reqAck 0 0x92EB 0) := rfl
theorem test_decode_data : decode ⟨64, 0x00000001DC2C0000⟩ = .ok (.data 1 0xDC2C 0) := rfl
theorem test_decode_dataAck : decode ⟨64, 0x00000005BFFA4000⟩ = .ok (.dataAck 5 0xBFFA 0) := rfl
theorem test_decode_undefinedSynReq :
    decode ⟨64, 0x000000000000A000⟩ = .ok (.undefinedSynReq 0 0 0) := rfl
theorem test_decode_undefinedSynAckReq :
    decode ⟨64, 0xFFFFFFFFFFFFE000⟩ = .ok (.undefinedSynAckReq 0xFFFFFFFF 0xFFFF 0) := rfl

/-- The header of V-DE-03 has must-be-zero bits set (R71). -/
theorem test_decode_unclean_header :
    decode ⟨64, 0x000000037EFB8101⟩ =
      if Config.strictReserved then .error .undefinedHeader else .ok (.connectReq 3 0x7EFB 0x0101) := by
  show (if (false || !Config.strictReserved) = true then _ else _) = _
  cases Config.strictReserved <;> rfl

/-- Strobes `00` and `11`, an unknown format, a bit above the format. -/
theorem test_decode_no_operation :
    instrOf 20 0b00_0000001000_01001000 = none ∧ instrOf 20 0b11_0000001000_01001000 = none
    ∧ instrOf 38 0 = none ∧ instrOf 38 0x3000000000 = none ∧ instrOf 16 1 = none
    ∧ instrOf 24 0x180000 = none ∧ instrOf 8 0x101 = none := by decide

/-! ### The codec (V-EN, V-DE) -/

/-- V-EN-03 and V-EN-05: byte order; `FLAGS[4:0]` dropped in the buffer, kept in the register. -/
theorem test_encode_bytes :
    bytesAfter (exec .encode { State.reset with seq := 0x12345678, csum := 0x5753, flags := 0x40 }) 0 9
      = some [some 0x12, some 0x34, some 0x56, some 0x78, some 0x57, some 0x53, some 0x40, some 0x00, none] := by
  decide
/-- V-EN-08: `LEN` and `RSVD` are ignored. -/
theorem test_encode_ignores_len_and_rsvd :
    let s := { State.reset with seq := 0xAA, csum := 0x1234, flags := 0x3F, rsvd := 0x7F, len := 2047 }
    bytesAfter (exec .encode s) 3 5 = some [some 0xAA, some 0x12, some 0x34, some 0x20, some 0x00]
    ∧ (nextOf (exec .encode s)).map (fun t => (t.flags, t.rsvd, t.code)) = some (0x3F, 0x7F, .ok) := by decide
/-- V-DE-03: must-be-zero bits are read as they are. -/
theorem test_decode_loads_fields :
    (nextOf (exec .decode (holding [0x00, 0x00, 0x00, 0x03, 0x7E, 0xFB, 0x81, 0x01]))).map
      (fun t => (t.seq, t.csum, t.flags, t.rsvd, t.code)) = some (3, 0x7EFB, 0x81, 0x01, .ok) := by decide
/-- V-DE-05: one byte short. -/
theorem test_decode_short_packet :
    (nextOf (exec .decode { holding [0x00, 0x00, 0x00, 0x01, 0xDC, 0x2C, 0x00] with seq := 9 })).map
      (fun t => (t.seq, t.code)) = some (9, .malformedHeader) := by decide

/-! ### The checksum (V-CK, V-SC, V-VF) -/

/-- V-CK-05: odd length, one fold. -/
theorem test_checksum_odd_length :
    (nextOf (exec .checksum hello)).map (fun t => (t.calcReg, t.code, t.busy)) = some (0xDC2C, .ok, false) := by
  decide
/-- V-CK-09: the single fold leaves 17 bits; bit 16 is dropped. -/
theorem test_checksum_single_fold :
    (nextOf (exec .checksum (holding [0xFF, 0xFF, 0xFF, 0xFF, 0x12, 0x34, 0x00, 0x00, 0x00, 0x01]))).map
      (·.calcReg) = some 0xFFFF := by decide
/-- V-CK-06: the lone byte is a high byte. -/
theorem test_checksum_lone_byte :
    checksum [0x00, 0x00, 0x00, 0x07, 0xAA, 0xBB, 0x00, 0x00, 0xAB] = 0x54F8 := by decide
/-- V-CK-03 through `SETCSUM`: the field, `CSUM` and `CALC` filled, the old field ignored. -/
theorem test_setcsum_fills_field :
    let r := exec .setcsum (holding [0x00, 0x00, 0x00, 0x05, 0xAA, 0xBB, 0x40, 0x00])
    bytesAfter r 0 8 = some [some 0x00, some 0x00, some 0x00, some 0x05, some 0xBF, some 0xFA, some 0x40, some 0x00]
    ∧ (nextOf r).map (fun t => (t.csum, t.calcReg, t.code)) = some (0xBFFA, 0xBFFA, .ok) := by decide
theorem test_setcsum_length_error :
    (nextOf (exec .setcsum { hello with len := 1025 })).map (fun t => (t.buf, t.csum, t.code))
      = some (hello.buf, 0, .lenError) := by decide
theorem test_verify_ok :
    (nextOf (exec .verify hello)).map (fun t => (t.calcReg, t.code)) = some (0xDC2C, .ok) := by decide
/-- V-CK-13: a flip inside the field; the stored value is the buffer's, not the register's. -/
theorem test_verify_mismatch :
    (nextOf (exec .verify { holding [0x00, 0x00, 0x00, 0x01, 0x5C, 0x2C, 0x00, 0x00, 0x48, 0x65, 0x6C, 0x6C, 0x6F]
        with csum := 0xDC2C })).map
      (fun t => (t.calcReg, t.csum, t.code)) = some (0xDC2C, 0xDC2C, .checksumMismatch) := by decide

/-! ### Host access (program P3, V-HO) -/

theorem test_badcmd_before_length_check :
    (nextOf (exec (.badcmd 0xFF) { State.reset with len := 2047 })).map (·.code) = some .badCmd := by decide
theorem test_wbuf_last_offset :
    bytesAfter (exec (.wbuf 1023 0x77) hello) 1022 2 = some [none, some 0x77]
    ∧ (nextOf (exec (.wbuf 8 0x49) hello)).map (fun t => t.buf.length) = some 13 := by decide
theorem test_rbuf_written_byte :
    (nextOf (exec (.rbuf 12) hello)).map (·.bufRdata) = some 0x6F := by decide
/-- A byte nothing has written is a free value; under the other setting the read has no meaning (R24). -/
theorem test_rbuf_unwritten_byte :
    (nextOf (exec (.rbuf 13) hello)).map (·.bufRdata) = some (Config.freeByte 0 13)
    ∧ refusedWith .unwrittenByte (execUnder .refuse (.rbuf 13) hello) = true
    ∧ (nextOf (execUnder .refuse (.rbuf 12) hello)).map (·.bufRdata) = some 0x6F :=
  ⟨rfl, rfl, rfl⟩
/-- V-RS-04 under `refuse`, as a step; and `CHECKSUM` does not need offsets 4 and 5 (R107 b), `VERIFY` does. -/
theorem test_refuse_setting :
    let s : State := { holding [] with
      buf := [(0, 0x00), (1, 0x00), (2, 0x00), (3, 0x05), (6, 0x40), (7, 0x00)], len := 8 }
    refusedWith .unwrittenByte (stepUnder .refuse ({ State.reset with len := 8 }.withFetchWord 8 5)) = true
    ∧ (nextOf (execUnder .refuse .checksum s)).map (·.calcReg) = some 0xBFFA
    ∧ refusedWith .unwrittenByte (execUnder .refuse .verify s) = true
    ∧ (nextOf (execUnder .refuse (.dataAck 5 0xBFFA 0) State.reset)).map (·.seq) = some 5 := by decide
/-- `wreg LEN, 0xFFFFFFFF` is truncated; `RSVD` ignores a write. -/
theorem test_wreg_truncates :
    (nextOf (exec (.wreg 4 0xFFFFFFFF) State.reset)).map (·.len) = some 0x7FF
    ∧ (nextOf (exec (.wreg 3 0xFF) State.reset)).map (·.rsvd) = some 0 := by decide
/-- `wreg CMD, 0x105` issues command 5: only the low 8 bits count. -/
theorem test_wreg_cmd_low_byte :
    (nextOf (exec (.wreg 5 0x105) hello)).map (fun t => (t.calcReg, t.code)) = some (0xDC2C, .ok) := by decide
theorem test_rreg_status :
    (nextOf (exec (.rreg 6) { State.reset with code := .badCmd })).map (·.regRdata) = some 4
    ∧ (nextOf (exec (.rreg 6) { State.reset with code := .lenError, busy := true })).map (·.regRdata) = some 0x83
    ∧ refusedWith .portWhileBusy (exec (.rreg 0) { State.reset with busy := true }) = true := by decide
/-- V-KD-08 and V-KD-02. -/
theorem test_rreg_kind :
    (nextOf (exec (.rreg 8) { State.reset with flags := 0xE0 })).map (·.regRdata) = some 0
    ∧ (nextOf (exec (.rreg 8) { State.reset with flags := 0xC0 })).map (·.regRdata) = some 2 := ⟨rfl, rfl⟩
/-- V-KD-09 and V-KD-11: unclean flags. -/
theorem test_kind_unclean :
    kind 0x81 0x00 = (if Config.strictReserved then 0 else 1)
    ∧ kind 0x1F 0x00 = (if Config.strictReserved then 0 else 5) := by
  constructor
  · show (if (true && Config.strictReserved) = true then _ else _) = _
    cases Config.strictReserved <;> rfl
  · show (if (true && Config.strictReserved) = true then _ else _) = _
    cases Config.strictReserved <;> rfl

/-! ### Packet kinds -/

/-- The kind codes of R70 to R72 after each row. -/
theorem test_header_rows_kind :
    ((([Instr.connectReq 0 0x7FFF 0, .connectAck 0 0 0, .fileReq 0 0 0, .reqAck 0 0 0, .data 0 0 0, .dataAck 0 0 0,
        .undefinedSynReq 0 0 0, .undefinedSynAckReq 0 0 0].map
      (fun i => (nextOf (exec i State.reset)).map State.kindNow)))
        = [some 1, some 2, some 3, some 4, some 5, some 6, some 0, some 0]) := rfl
/-- V-DE-01's header word as a row: the bytes, the registers. -/
theorem test_header_row_loads :
    let r := exec (.dataAck 0x12345678 0x5753 0) State.reset
    bytesAfter r 0 8 = some [some 0x12, some 0x34, some 0x56, some 0x78, some 0x57, some 0x53, some 0x40, some 0x00]
    ∧ (nextOf r).map (fun t => (t.seq, t.csum, t.flags, t.rsvd, t.len, t.code))
        = some (0x12345678, 0x5753, 0x40, 0, 8, .ok) := by decide

/-! ### Step and reset -/

theorem test_step_first_instruction :
    (nextOf (step (State.reset.withFetchWord 24 0x80848))).map (fun t => (t.buf, t.inputs)) = some ([(8, 0x48)], []) := by
  decide
theorem test_step_rst :
    (nextOf (step { hello with seq := 7, calcReg := 9, code := .badCmd, inputs := [.rst, .rst] })).map
      (fun t => (t.seq, t.len, t.calcReg, t.code, t.buf, t.inputs)) = some (0, 0, 0, .ok, [], [.rst]) := rfl

/-! ### Witnesses: states and operands that meet the hypotheses of the obligations -/

theorem witness_DecodeOfEncode :
    Instr.wf (.wreg 15 0xFFFFFFFF) = true ∧ Instr.wf (.badcmd 6) = true ∧ Instr.wf (.fileReq 1 2 0) = true :=
  ⟨rfl, rfl, rfl⟩

theorem witness_DecodedIsWellFormed : decode ⟨8, 0xFF⟩ = .ok (.badcmd 0xFF) := rfl

/-- A read with its data lines driven, on both ports, and a pattern without ignored lines. -/
theorem witness_DecodedPatternIsItsEncoding :
    decode ⟨20, 0x403FF⟩ = .ok (.rbuf 3) ∧ decode ⟨38, 0x16FFFFFFFF⟩ = .ok (.rreg 6)
    ∧ decode ⟨20, 0x803FF⟩ = .ok (.wbuf 3 0xFF) := ⟨rfl, rfl, rfl⟩

theorem witness_StrobePatternsAreNoOperations :
    let s : State := { State.reset with inputs := [.txn ⟨20, 0x003FF⟩, .txn ⟨38, 0x3000000000⟩] }
    s.inputs = .txn ⟨20, 0x003FF⟩ :: [.txn ⟨38, 0x3000000000⟩]
    ∧ decode ⟨20, 0x003FF⟩ = .error .noOperation ∧ decode ⟨38, 0x3000000000⟩ = .error .bothStrobes :=
  ⟨rfl, rfl, rfl⟩

theorem witness_StepRunsDecodedInstruction :
    (hello.withFetchWord 8 5).inputs = .txn ⟨8, 5⟩ :: [] ∧ decode ⟨8, 5⟩ = .ok .verify
    ∧ decodeTableWord 24 0x403FF = some (.rbuf 3) ∧ State.reset.inputs = [] := ⟨rfl, rfl, rfl, rfl⟩

theorem witness_RstEdgeResets :
    ({ hello with busy := true, inputs := [.rst, .txn ⟨8, 1⟩] } : State).inputs = .rst :: [.txn ⟨8, 1⟩] := rfl

theorem witness_FirstOperationAfterReset :
    isHeaderRow (.wbuf 1023 0) = false ∧ Instr.decode ∈ [Instr.decode, .checksum, .setcsum, .verify]
    ∧ Instr.verify ∈ [Instr.decode, .checksum, .setcsum, .verify] := by decide

theorem witness_WbufStoresOneByte : hello.busy = false ∧ (1023 : Offset).toNat = 1023 := ⟨rfl, rfl⟩

theorem witness_RbufReturnsByte :
    hello.busy = false ∧ Memory.read hello.buf (0 : Offset).toNat = some 0x00
    ∧ Memory.read hello.buf (12 : Offset).toNat = some 0x6F ∧ Memory.read hello.buf (13 : Offset).toNat = none
    ∧ Memory.read hello.buf (1023 : Offset).toNat = none := by decide

theorem witness_WregStoresLowBits :
    hello.busy = false ∧ (∀ r : RegNum, r = 3 ∨ 9 ≤ r.toNat →
      (r = 3 ∨ r = 6 ∨ r = 7 ∨ r = 8 ∨ 9 ≤ r.toNat)) ∧ 9 ≤ (9 : RegNum).toNat ∧ 9 ≤ (15 : RegNum).toNat := by
  decide

/-- Data words with high bits set, one for each clause. -/
theorem witness_WregToCmdIssuesCommand :
    hello.busy = false ∧ (0xFFFFFF01 : Word).setWidth 8 = 0x01#8 ∧ (0x102 : Word).setWidth 8 = 0x02#8
    ∧ (0x103 : Word).setWidth 8 = 0x03#8 ∧ (0x104 : Word).setWidth 8 = 0x04#8
    ∧ (0x105 : Word).setWidth 8 = 0x05#8 ∧ (0x100 : Word).setWidth 8 = 0x00#8
    ∧ 0x06 ≤ ((0x106 : Word).setWidth 8).toNat := by decide

theorem witness_RregReadsRegisterMap :
    hello.busy = false ∧ 9 ≤ (9 : RegNum).toNat ∧ 9 ≤ (15 : RegNum).toNat := by decide

theorem witness_WriteThenReadRegister :
    hello.busy = false ∧ (0 : RegNum) ≠ 5 ∧ (1 : RegNum) ≠ 5 ∧ (2 : RegNum) ≠ 5 ∧ (4 : RegNum) ≠ 5
    ∧ (15 : RegNum) ≠ 5 := by decide

theorem witness_BadcmdChangesOnlyCode :
    hello.busy = false ∧ (0x06 : Nat) ≤ (0x06 : Byte).toNat ∧ (0x06 : Nat) ≤ (0xFF : Byte).toNat
    ∧ (0x100 : Word).setWidth 8 = (0x00 : Byte) ∧ (0x106 : Word).setWidth 8 = (0x06 : Byte) := by decide

theorem witness_BusyAllowsOnlyStatusRead :
    ({ hello with busy := true, code := .badCmd } : State).busy = true ∧ Instr.rreg 5 ≠ .rreg 6 := by decide

theorem witness_EncodeStoresHeader : hello.busy = false ∧ (7 : Nat) < 8 ∧ ¬(8 : Nat) < 8 := by decide

/-- The shortest and the longest legal length; used by every statement about a reading command. -/
theorem witness_lengthOk :
    hello.busy = false ∧ ({ hello with len := 8 } : State).lengthOk ∧ ({ hello with len := 1024 } : State).lengthOk :=
  ⟨rfl, ⟨by decide, by decide⟩, ⟨by decide, by decide⟩⟩

theorem witness_DecodeLoadsHeader : hello.busy = false ∧ hello.lengthOk := ⟨rfl, by decide, by decide⟩

theorem witness_LengthChecksChangeOnlyCode :
    Instr.setcsum ∈ [Instr.decode, .checksum, .setcsum, .verify] ∧ hello.busy = false
    ∧ 1024 < ({ hello with len := 1025 } : State).len.toNat ∧ 1024 < ({ hello with len := 2047 } : State).len.toNat
    ∧ ({ hello with len := 7 } : State).len.toNat < 8 ∧ ({ hello with len := 0 } : State).len.toNat < 8 := by decide

theorem witness_HeaderRoundTrip : hello.busy = false ∧ hello.lengthOk := witness_DecodeLoadsHeader

/-- A clean header (V-DE-01) and an unclean one (V-DE-03). -/
theorem witness_ReencodeKeepsCleanHeader :
    decodeHeader [0x12, 0x34, 0x56, 0x78, 0x57, 0x53, 0x40, 0x00] = some ⟨0x12345678, 0x5753, 0x40, 0x00⟩
    ∧ headerClean 0x40 0x00 = true
    ∧ decodeHeader [0x00, 0x00, 0x00, 0x03, 0x7E, 0xFB, 0x81, 0x01] = some ⟨3, 0x7EFB, 0x81, 0x01⟩
    ∧ headerClean 0x81 0x01 = false := by decide

theorem witness_EncodedBytesAsTheHostReadsThem : hello.busy = false := rfl

theorem witness_ChecksumSizes :
    8 ≤ (List.replicate 8 (0xFF : Byte)).length ∧ (List.replicate 1024 (0xFF : Byte)).length ≤ 1024 := by
  simp only [List.length_replicate]; decide

/-- V-CK-09 is a packet whose folded sum has 17 bits. -/
theorem witness_SingleFoldDropsCarry :
    let b : List Byte := [0xFF, 0xFF, 0xFF, 0xFF, 0x00, 0x00, 0x00, 0x00, 0x00, 0x01]
    8 ≤ b.length ∧ b.length ≤ 1024 ∧ 0x10000 ≤ fold1 (rawSum (zeroed b)) := by decide

/-- V-CK-11: two packets that differ in the field alone. -/
theorem witness_ChecksumLaws :
    let b : List Byte := [0x00, 0x00, 0x00, 0x00, 0x12, 0x34, 0x80, 0x00]
    let b' : List Byte := [0x00, 0x00, 0x00, 0x00, 0xFF, 0xFF, 0x80, 0x00]
    8 ≤ b.length ∧ b'.length = b.length ∧ ∀ i, i ≠ 4 → i ≠ 5 → b'[i]? = b[i]? := by
  refine ⟨by decide, rfl, fun i h4 h5 => ?_⟩
  match i with
  | 0 | 1 | 2 | 3 | 6 | 7 => rfl
  | 4 => exact absurd rfl h4
  | 5 => exact absurd rfl h5
  | n + 8 => rfl

/-- A verified packet of odd length, a flip at its first, its field's and its last byte. -/
theorem witness_SingleBitFlipIsDetected :
    8 ≤ helloBytes.length ∧ verify helloBytes = true ∧ (0 : Nat) < helloBytes.length ∧ (5 : Nat) < helloBytes.length
    ∧ (12 : Nat) < helloBytes.length ∧ (7 : Nat) < 8 := by decide

/-- V-CK-14: the words at offsets 8 and 10 swapped. -/
theorem witness_ChecksumBlindSpots :
    let p : List Byte := [0x00, 0x00, 0x00, 0x01, 0x00, 0x00, 0x00, 0x00]
    let q : List Byte := []
    let r : List Byte := []
    p.length % 2 = 0 ∧ q.length % 2 = 0 ∧ p.length ≠ 4 ∧ p.length + 2 + q.length ≠ 4
    ∧ 8 ≤ p.length + q.length + r.length + 4 ∧ 8 ≤ p.length := by decide

theorem witness_ChecksumWritesCalc : hello.busy = false ∧ hello.lengthOk := witness_DecodeLoadsHeader

/-- The packet written but for its checksum field. -/
theorem witness_SetcsumStoresChecksum :
    let s : State := { holding [] with
      buf := [(0, 0x00), (1, 0x00), (2, 0x00), (3, 0x05), (6, 0x40), (7, 0x00)], len := 8 }
    s.busy = false ∧ s.lengthOk ∧ ∀ a, a < s.len.toNat → a ≠ 4 → a ≠ 5 → s.written a = true :=
  ⟨rfl, ⟨by decide, by decide⟩, by decide⟩

theorem witness_VerifyComparesStoredChecksum :
    hello.busy = false ∧ hello.lengthOk ∧ verify hello.packet = true := ⟨rfl, ⟨by decide, by decide⟩, by decide⟩

theorem hello_inv : hello.Inv := ⟨by decide, rfl⟩

theorem witness_StepKeepsInv :
    (hello.withFetchWord 8 5).Inv ∧ (nextOf (step (hello.withFetchWord 8 5))).isSome = true :=
  ⟨hello_inv, by decide⟩

theorem witness_EveryOperationCompletes : hello.busy = false := rfl

/-- Each register has an instruction that changes it. -/
theorem witness_RegisterWriters :
    Instr.wf (.wreg 0 1) = true ∧ isHeaderRow (.wreg 0 1) = false
    ∧ (nextOf (exec (.wreg 0 1) hello)).map (·.seq) ≠ some hello.seq
    ∧ (nextOf (exec .setcsum hello)).map (·.csum) ≠ some hello.csum
    ∧ (nextOf (exec (.wreg 2 1) hello)).map (·.flags) ≠ some hello.flags
    ∧ (nextOf (exec .decode { hello with rsvd := 1 })).map (·.rsvd) ≠ some 1
    ∧ (nextOf (exec (.wreg 4 1) hello)).map (·.len) ≠ some hello.len
    ∧ (nextOf (exec (.badcmd 0) hello)).map (·.code) ≠ some hello.code
    ∧ (nextOf (exec .checksum hello)).map (·.calcReg) ≠ some hello.calcReg
    ∧ (nextOf (exec (.rreg 4) hello)).map (·.regRdata) ≠ some hello.regRdata
    ∧ (nextOf (exec (.rbuf 12) hello)).map (·.bufRdata) ≠ some hello.bufRdata := by decide

theorem witness_BufferWriters :
    isHeaderRow (.wbuf 1023 1) = false
    ∧ bytesAfter (exec (.wbuf 1023 1) hello) 1023 1 ≠ some [Memory.read hello.buf 1023]
    ∧ bytesAfter (exec .encode hello) 3 1 ≠ some [Memory.read hello.buf 3]
    ∧ bytesAfter (exec .setcsum { hello with len := 12 }) 5 1 ≠ some [Memory.read hello.buf 5] := by decide

theorem witness_WrittenMarksStay :
    (nextOf (step (hello.withFetchWord 8 1))).isSome = true
    ∧ (hello.withFetchWord 8 1).inputs.head? ≠ some .rst
    ∧ (hello.withFetchWord 8 1).written 12 = true := by decide

/-- Each way a command fails. -/
theorem witness_FailingCommandHasNoPartialEffect :
    Issues .verify 0x05 ∧ hello.busy = false
    ∧ (nextOf (exec .verify (hello.writeByte 8 0x49))).map (·.code) = some .checksumMismatch
    ∧ (nextOf (exec .verify { hello with len := 7 })).map (·.code) = some .malformedHeader
    ∧ (nextOf (exec .verify { hello with len := 1025 })).map (·.code) = some .lenError
    ∧ Issues (.badcmd 0x06) 0x06 ∧ (nextOf (exec (.badcmd 0x06) hello)).map (·.code) = some .badCmd :=
  ⟨.inl rfl, rfl, by decide, by decide, by decide, .inl rfl, by decide⟩

/-- One instruction for each clause; the length clauses at their bounds. -/
theorem witness_StatusOfEveryCommand :
    Issues (.badcmd 0x00) 0x00 ∧ Issues (.wreg 5 0x106) 0x06 ∧ Issues .encode 0x01 ∧ Issues .verify 0x05
    ∧ hello.busy = false ∧ 1024 < ({ hello with len := 1025 } : State).len.toNat
    ∧ ({ hello with len := 7 } : State).len.toNat < 8 ∧ checksum hello.packet = be16 hello.packet 4 :=
  ⟨.inl rfl, .inr ⟨0x106, rfl, rfl⟩, .inl rfl, .inl rfl, rfl, by decide, by decide, by decide⟩

theorem hello_written : hello.writtenFrom 0 := by unfold State.writtenFrom; decide

theorem hello_reads (i : Instr) (hi : i = .decode ∨ i = .checksum ∨ i = .setcsum ∨ i = .verify ∨ i = .encode) :
    ReadsWritten i hello := by
  rintro a (⟨o, rfl, -⟩ | ⟨-, ha, -⟩)
  · simp at hi
  · exact hello_written a (Nat.zero_le _) ha

/-- `ENCODE` with nothing written and a length that is too long reads nothing. -/
theorem encode_reads_nothing : ReadsWritten .encode { State.reset with len := 2047 } := by
  rintro a (⟨o, ho, -⟩ | ⟨h, -⟩)
  · cases ho
  · exact absurd h.2 (by decide)

/-- A reading command on a written packet; a command that reads nothing; a read of a written byte. -/
theorem witness_CommandsAreIdempotent :
    hello.busy = false ∧ ReadsWritten .setcsum hello
    ∧ ({ State.reset with len := 2047 } : State).busy = false
    ∧ ReadsWritten .encode { State.reset with len := 2047 } :=
  ⟨rfl, hello_reads _ (by simp), rfl, encode_reads_nothing⟩

/-- A buffer with one stale byte at offset `LEN`, for a command that stores and one that does not. -/
theorem witness_StaleBytesDoNotMatter :
    Instr.setcsum ∈ [Instr.decode, .checksum, .setcsum, .verify] ∧ ReadsWritten .setcsum hello
    ∧ Instr.verify ∈ [Instr.decode, .checksum, .setcsum, .verify] ∧ ReadsWritten .verify hello
    ∧ (∀ a, a < hello.len.toNat → Memory.read (hello.buf ++ [(13, 0xAA)]) a = Memory.read hello.buf a)
    ∧ (nextOf (exec .setcsum hello)).isSome = true ∧ (nextOf (exec .verify hello)).isSome = true :=
  ⟨by decide, hello_reads _ (by simp), by decide, hello_reads _ (by simp), by decide, by decide, by decide⟩

/-- A written packet; and, V-RS-04, a `VERIFY` of eight bytes of which none has been written. -/
theorem witness_UnwrittenSettingDecidesReads :
    ReadsWritten .checksum hello
    ∧ ({ State.reset with len := 8 } : State).busy = false
    ∧ ∃ a, Reads .verify { State.reset with len := 8 } a
        ∧ ({ State.reset with len := 8 } : State).written a = false :=
  ⟨hello_reads _ (by simp), rfl, 7, .inr ⟨⟨by decide, by decide⟩, by decide, .inr (.inr (.inl rfl))⟩, rfl⟩

/-- A pending command, a pending reset, no input. -/
theorem witness_StepUnderEitherSetting :
    (hello.withFetchWord 8 5).inputs = .txn ⟨8, 5⟩ :: [] ∧ decode ⟨8, 5⟩ = .ok .verify ∧ ReadsWritten .verify hello
    ∧ ({ hello with inputs := [.rst] } : State).inputs.head? = some .rst ∧ hello.inputs = [] :=
  ⟨rfl, rfl, hello_reads _ (by simp), rfl, rfl⟩

/-- The payload written, the header not. -/
theorem witness_PackedPacketVerifies :
    let s : State := { State.reset with buf := [(8, 0x48)], len := 9, seq := 1 }
    s.busy = false ∧ s.lengthOk ∧ s.writtenFrom 8 :=
  ⟨rfl, ⟨by decide, by decide⟩, by unfold State.writtenFrom; decide⟩

theorem witness_StaleChecksumIsReported :
    hello.busy = false ∧ hello.lengthOk ∧ hello.writtenFrom 8 ∧ 31 < 32 :=
  ⟨rfl, ⟨by decide, by decide⟩, by unfold State.writtenFrom; decide, by decide⟩

theorem witness_FlippedBufferBitIsReported :
    hello.busy = false ∧ hello.lengthOk ∧ hello.writtenFrom 0 ∧ verify hello.packet = true
    ∧ (0 : Offset).toNat < hello.len.toNat ∧ (4 : Offset).toNat < hello.len.toNat
    ∧ (12 : Offset).toNat < hello.len.toNat ∧ 7 < 8 :=
  ⟨rfl, ⟨by decide, by decide⟩, hello_written, by decide, by decide, by decide, by decide, by decide⟩

theorem witness_SentPacketIsReceived :
    hello.busy = false ∧ hello.lengthOk ∧ hello.writtenFrom 8 ∧ State.reset.busy = false :=
  ⟨rfl, ⟨by decide, by decide⟩, by unfold State.writtenFrom; decide, rfl⟩

theorem witness_KindFollowsRegisters : hello.busy = false ∧ hello.lengthOk := witness_DecodeLoadsHeader

theorem witness_HeaderRowResult :
    hello.busy = false
    ∧ (Instr.connectAck 1 2 0, 0b110#3, 2#32) ∈
        [(Instr.connectReq 1 2 0, 0b100#3, 1#32), (.connectAck 1 2 0, 0b110#3, 2#32)] := by decide

end Sys2Proof.Tests
end

section
/-! The open parameter `UNWRITTEN` (`00_scope.md` R6, `10_state.md` R24): where the reads are written the setting does not
matter, and a read of an unwritten byte is refused under `refuse`. -/

namespace Sys2Proof.Machine

/-! ### Reads of written bytes: the setting does not matter -/

/-- A packet-kind row is the receive script over one header word, under either setting. -/
theorem execUnder_headerRow {i : Instr} (hi : isHeaderRow i = true) :
    ∃ h, ∀ u s, execUnder u i s = receiveHeaderUnder u h s := by
  cases i with
  | encode | decode | checksum | setcsum | verify | badcmd | wbuf | rbuf | wreg | rreg =>
    exact absurd hi Bool.false_ne_true
  | connectReq | connectAck | fileReq | reqAck | data | dataAck | undefinedSynReq | undefinedSynAckReq =>
    exact ⟨headerWord _ _ _ _, fun _ _ => rfl⟩

/-- The receive script decodes the 8 bytes it has written itself, so it reads no unwritten one. -/
theorem readsWritten_decode_of_headerStored (s : State) (v : Nat) :
    ReadsWritten .decode ((s.memWrite 0 8 v).writeReg 4#4 8#32) := by
  rintro a (⟨o, ho, -⟩ | ⟨-, ha, -⟩)
  · cases ho
  · have ha8 : 0 ≤ a ∧ a < 0 + 8 := ⟨a.zero_le, ha⟩
    have hread : Memory.read (Memory.writeBE s.buf 0 8 v) a = some _ :=
      (Memory.read_writeBE ..).trans (if_pos ha8)
    exact Option.isSome_iff_exists.2 ⟨_, hread⟩

/-- The receive script does the same under either setting, in every state. -/
theorem receiveHeaderUnder_eq (u : Unwritten) (h : BitVec 64) (s : State) :
    receiveHeaderUnder u h s = receiveHeader h s :=
  congrArg s.whenIdle <|
    issueUnder_of_written (i := .decode) (.inl rfl) (readsWritten_decode_of_headerStored s h.toNat) u

/-- A write to a register other than `CMD` reads nothing, so no setting matters to it. -/
theorem execWregUnder_of_ne_cmd {r : RegNum} (hr : r.toNat ≠ 5) (u : Unwritten) (v : Word) (s : State) :
    execWregUnder u r v s = execWreg r v s := by
  simp only [execWreg, execWregUnder, if_neg hr]

/-- Where every byte an instruction reads has been written, it does the same under either setting. -/
theorem execUnder_of_written {i : Instr} {s : State} (hr : ReadsWritten i s) (u : Unwritten) :
    execUnder u i s = exec i s := by
  have command : ∀ {c}, Issues i c → execUnder u i s = exec i s := fun hc => by
    rw [execUnder_of_issues hc, exec_of_issues hc, issueUnder_of_written hc hr]
  have header : isHeaderRow i = true → execUnder u i s = exec i s := fun hi => by
    obtain ⟨h, he⟩ := execUnder_headerRow hi
    rw [← execUnder_draw, he, he, receiveHeaderUnder_eq, receiveHeaderUnder_eq]
  cases i with
  | encode | badcmd | wbuf | rreg => rfl
  | decode => exact command (c := 0x02) (.inl rfl)
  | checksum => exact command (c := 0x03) (.inl rfl)
  | setcsum => exact command (c := 0x04) (.inl rfl)
  | verify => exact command (c := 0x05) (.inl rfl)
  | rbuf a =>
    have hw : ∀ b ∈ [a.toNat], s.written b = true := fun b hb =>
      hr b (.inl ⟨a, rfl, List.mem_singleton.1 hb⟩)
    exact congrArg s.whenIdle (State.whenWrittenUnder_of_written hw u _)
  | wreg r v =>
    by_cases h5 : r.toNat = 5
    · obtain rfl : r = 5#4 := BitVec.eq_of_toNat_eq h5
      exact command (.inr ⟨v, rfl, rfl⟩)
    · exact execWregUnder_of_ne_cmd h5 u v s
  | connectReq | connectAck | fileReq | reqAck | data | dataAck | undefinedSynReq | undefinedSynAckReq =>
    exact header rfl

/-! ### Reads of unwritten bytes: `refuse` refuses -/

/-- The guards of a reading command refuse, under `refuse`, a legal length with an unwritten offset to read. -/
theorem State.guards_refuse_of_unwritten {s : State} {offsets : List Nat} {a : Nat} (ok : s.lengthOk)
    (ha : a ∈ offsets) (hw : s.written a = false) (k : Result) :
    s.whenLengthOk (s.whenWrittenUnder .refuse offsets k) = .refused .unwrittenByte := by
  rw [State.whenLengthOk_of_ok ok, State.whenWrittenUnder_refuse_of_unwritten ha hw]

/-- The offsets of a checksum walk: all below `LEN` but the field's own two. -/
theorem mem_summedOffsets {s : State} {a : Nat} (ha : a < s.len.toNat) (h4 : a ≠ 4) (h5 : a ≠ 5) :
    a ∈ summedOffsets s := by
  simp [summedOffsets, ha, h4, h5]

/-- Under `refuse` an idle block refuses every instruction that reads an unwritten byte. -/
theorem execUnder_refuse_of_unwritten {i : Instr} {s : State} {a : Nat} (idle : s.busy = false)
    (hr : Reads i s a) (hw : s.written a = false) :
    execUnder .refuse i s = .refused .unwrittenByte := by
  have guarded : ∀ {c offsets k}, Issues i c → s.lengthOk → a ∈ offsets →
      issueUnder .refuse c s = s.start.whenLengthOk (s.start.whenWrittenUnder .refuse offsets k) →
      execUnder .refuse i s = .refused .unwrittenByte := fun hc ok hmem hbody => by
    rw [execUnder_of_issues hc, State.whenIdle_of_idle idle, hbody]
    exact State.guards_refuse_of_unwritten (s := s.start) ok hmem hw _
  rcases hr with ⟨o, rfl, rfl⟩ | ⟨ok, ha, ⟨decodes, ha8⟩ | ⟨checksums | setsCsum, h4, h5⟩ | verifies⟩
  · exact (State.whenIdle_of_idle idle _).trans
      (State.whenWrittenUnder_refuse_of_unwritten (List.mem_singleton_self _) hw _)
  · exact guarded decodes ok (List.mem_range'_1.2 ⟨a.zero_le, by omega⟩) rfl
  · exact guarded checksums ok (mem_summedOffsets (s := s.start) ha h4 h5) rfl
  · exact guarded setsCsum ok (mem_summedOffsets (s := s.start) ha h4 h5) rfl
  · exact guarded verifies ok (List.mem_range'_1.2 ⟨a.zero_le, by simpa using ha⟩) rfl

/-- Settles O51: on written reads the guards let every read go on under either setting, and an unwritten read is one of
the offsets a guard checks. -/
theorem unwrittenSettingDecidesReads : Obligations.UnwrittenSettingDecidesReads := by
  intro i s
  refine ⟨fun hr u => execUnder_of_written hr u, ?_⟩
  rintro idle ⟨a, hr, hw⟩
  exact execUnder_refuse_of_unwritten idle hr hw

/-! ### A step, given what an instruction does -/

/-- A step on a pending transaction that decodes runs its instruction, the queue without it. -/
theorem stepWith_of_txn {run : Instr → State → Result} {s : State} {w : PortWord} {rest : List HostInput} {i : Instr}
    (hs : s.inputs = .txn w :: rest) (hd : decode w = .ok i) :
    stepWith run s = run i { s with inputs := rest } := by
  simp only [stepWith, State.nextInput, hs, runInput, runWord, hd]

/-- A step on an `rst` edge, or without an input, runs no instruction. -/
theorem stepWith_of_no_txn (run run' : Instr → State → Result) {s : State}
    (hs : s.inputs.head? = some .rst ∨ s.inputs = []) : stepWith run s = stepWith run' s := by
  rcases hs with hrst | hnone
  · obtain ⟨rest, hs⟩ := List.head?_eq_some_iff.1 hrst
    simp only [stepWith, State.nextInput, hs, runInput]
  · simp only [stepWith, State.nextInput, hnone]

/-- Settles O52: `step` and `stepUnder` are one step function over what an instruction does. -/
theorem stepUnderEitherSetting : Obligations.StepUnderEitherSetting := by
  refine ⟨fun u s w rest i hs hd => ⟨stepWith_of_txn hs hd, fun hr => ?_⟩,
    fun u s hs => stepWith_of_no_txn _ _ hs, execUnder_draw, stepUnder_draw⟩
  have hr' : ReadsWritten i { s with inputs := rest } := hr
  calc stepUnder u s
      = execUnder u i { s with inputs := rest } := stepWith_of_txn hs hd
    _ = exec i { s with inputs := rest } := execUnder_of_written hr' u
    _ = step s := (stepWith_of_txn hs hd).symm

end Sys2Proof.Machine
end

section
/-! What each operation leaves, said once: the port operations, the commands with a legal length and without, and the
bytes that what they read depends on. -/

namespace Sys2Proof.Machine

/-! ### Stores and loads -/

/-- A store over the same store leaves what the first left. -/
theorem Memory.read_writeBE_writeBE (m : Memory) (a n v b : Nat) :
    Memory.read (Memory.writeBE (Memory.writeBE m a n v) a n v) b = Memory.read (Memory.writeBE m a n v) b := by
  rw [Memory.read_writeBE _ a n v b]
  split
  · rename_i hb
    rw [Memory.read_writeBE, if_pos hb]
  · rfl

theorem State.memRead_congr {s t : State} {a n : Nat} (h : ∀ b, a ≤ b → b < a + n → t.byteAt b = s.byteAt b) :
    t.memRead a n = s.memRead a n := by
  have bytes : t.bytes a n = s.bytes a n := by
    apply List.ext_getElem?
    intro i
    rw [State.getElem?_bytes, State.getElem?_bytes]
    split
    · rw [h (a + i) (by omega) (by omega)]
    · rfl
  exact congrArg beNat bytes

/-- A one-byte load is the packet's byte at that offset. -/
theorem State.ofNat_memRead_byte {s : State} {a : Nat} (ha : a < s.len.toNat) :
    BitVec.ofNat 8 (s.memRead a 1) = s.packet.getD a 0 := by
  rw [List.getD_eq_getElem?_getD, State.getElem?_packet, if_pos ha]
  exact ofNat_beNat1 (s.byteAt a)

/-- `DECODE` loads the same fields from the same header bytes. -/
theorem State.loadHeader_congr {s t : State} (h : ∀ a, a < 8 → t.byteAt a = s.byteAt a) :
    t.loadHeader = { t with
      seq := s.loadHeader.seq, csum := s.loadHeader.csum, flags := s.loadHeader.flags, rsvd := s.loadHeader.rsvd } := by
  have read : ∀ a n, a + n ≤ 8 → t.memRead a n = s.memRead a n := fun a n hn =>
    State.memRead_congr fun b _ hb => h b (by omega)
  simp only [State.loadHeader, read 0 4 (by omega), read 4 2 (by omega), read 6 1 (by omega), read 7 1 (by omega)]

/-- `DECODE` finds its fields in the registers already, when they hold what it loads from the same header bytes. -/
theorem State.loadHeader_of_loaded {s t : State} (h : ∀ a, a < 8 → t.byteAt a = s.byteAt a)
    (hseq : t.seq = s.loadHeader.seq) (hcsum : t.csum = s.loadHeader.csum) (hflags : t.flags = s.loadHeader.flags)
    (hrsvd : t.rsvd = s.loadHeader.rsvd) : t.loadHeader = t := by
  rw [State.loadHeader_congr h, ← hseq, ← hcsum, ← hflags, ← hrsvd]

/-- The checksum of a packet depends on its length and on its bytes outside the checksum field (`41_checksum.md`
R107 b). -/
theorem State.checksum_packet_congr {s t : State} (hl : t.len = s.len)
    (h : ∀ a, a < s.len.toNat → a ≠ 4 → a ≠ 5 → t.byteAt a = s.byteAt a) : checksum t.packet = checksum s.packet := by
  have same : zeroed t.packet = zeroed s.packet := by
    apply List.ext_getElem?
    intro i
    simp only [zeroed, List.getElem?_set, List.length_set, State.length_packet, State.getElem?_packet, hl]
    by_cases h5 : 5 = i
    · rw [if_pos h5, if_pos h5]
    by_cases h4 : 4 = i
    · rw [if_pos h4, if_pos h4]
    rw [if_neg h5, if_neg h4, if_neg h5, if_neg h4]
    split
    · rename_i hi
      rw [h i hi (Ne.symm h4) (Ne.symm h5)]
    · rfl
  simp only [checksum, same]

/-- A field that the sum leaves out may be zeroed first (`41_checksum.md` R108). -/
theorem State.checksum_packet_zeroedField (s : State) : checksum (s.memWrite 4 2 0).packet = checksum s.packet := by
  refine State.checksum_packet_congr (by rfl) fun a _ h4 h5 => ?_
  have other : Memory.read (Memory.writeBE s.buf 4 2 0) a = Memory.read s.buf a :=
    (Memory.read_writeBE ..).trans (if_neg (by omega))
  simp only [State.byteAt, Memory.byteAt, State.memWrite_buf, State.memWrite_draws, other]

/-- The buffer after `SETCSUM`: the packet's checksum at offsets 4 and 5. -/
theorem State.read_storeChecksum (s : State) (a : Nat) :
    Memory.read s.storeChecksum.buf a =
      if 4 ≤ a ∧ a < 6 then some (BitVec.ofNat 8 ((checksum s.packet).toNat >>> (8 * (5 - a))))
      else Memory.read s.buf a := by
  rw [State.storeChecksum_buf, s.checksum_packet_zeroedField, Memory.read_writeBE, Memory.read_writeBE]
  split <;> rfl

/-- Over the bytes a `SETCSUM` left, another with the same sum stores what is there. -/
theorem State.read_storeChecksum_again {s t : State} (sum : checksum t.packet = checksum s.packet)
    (hbuf : t.buf = s.storeChecksum.buf) (a : Nat) : Memory.read t.storeChecksum.buf a = Memory.read t.buf a := by
  rw [t.read_storeChecksum, sum, hbuf, s.read_storeChecksum]
  split_ifs <;> rfl

/-! ### Port operations -/

/-! A register write leaves the buffer and `STATUS` alone. -/

@[simp] theorem State.writeReg_buf (s : State) (r : RegNum) (v : Word) : (s.writeReg r v).buf = s.buf := by
  unfold State.writeReg
  split <;> rfl

@[simp] theorem State.writeReg_busy (s : State) (r : RegNum) (v : Word) : (s.writeReg r v).busy = s.busy := by
  unfold State.writeReg
  split <;> rfl

@[simp] theorem State.writeReg_code (s : State) (r : RegNum) (v : Word) : (s.writeReg r v).code = s.code := by
  unfold State.writeReg
  split <;> rfl

/-- A register write repeated stores what is there. -/
theorem State.writeReg_writeReg (s : State) (r : RegNum) (v : Word) :
    (s.writeReg r v).writeReg r v = s.writeReg r v := by
  rcases writeReg_cases s r v with ⟨rfl, e⟩ | ⟨rfl, e⟩ | ⟨rfl, e⟩ | ⟨rfl, e⟩ | ⟨-, -, -, -, e⟩
  · rfl
  · rfl
  · rfl
  · rfl
  · rw [e, e]

theorem State.readReg_kind (s : State) : s.readReg 8 = (kind s.flags s.rsvd).setWidth 32 := rfl

/-- A write to a register other than `CMD`, by an idle block. -/
theorem exec_wreg {r : RegNum} {s : State} (idle : s.busy = false) (hr : r ≠ 5) (v : Word) :
    exec (.wreg r v) s = .next (s.writeReg r v) := by
  have h5 : r.toNat ≠ 5 := fun h => hr (BitVec.eq_of_toNat_eq h)
  exact (State.whenIdle_of_idle idle _).trans (if_neg h5)

/-- A read of any register, by an idle block. -/
theorem exec_rreg {s : State} (idle : s.busy = false) (r : RegNum) :
    exec (.rreg r) s = .next { s with regRdata := s.readReg r } := by
  simp [exec, execRreg, idle]

/-- A store of a buffer byte, by an idle block (`42_host_access.md` R120). -/
theorem exec_wbuf {s : State} (idle : s.busy = false) (a : Offset) (d : Byte) :
    exec (.wbuf a d) s = .next (s.writeByte a.toNat d) :=
  State.whenIdle_of_idle idle _

/-- A read of a buffer byte, by an idle block (`42_host_access.md` R121; log entry 2). -/
theorem exec_rbuf {s : State} (idle : s.busy = false) (a : Offset) :
    exec (.rbuf a) s = .next { s with bufRdata := s.byteAt a.toNat, draws := s.draws + 1 } :=
  State.whenIdle_of_idle idle _

/-- A script of two instructions whose first completes. -/
theorem runOps_pair {i j : Instr} {s t u : State} (hi : exec i s = .next t) (hj : exec j t = .next u) :
    runOps [i, j] s = .next u := by
  simp only [runOps, hi, hj]

/-! ### Commands -/

/-- The codes: `ENCODE`, the four commands that read `LEN`, and the reserved ones. -/
theorem issue_code_cases (c : Byte) :
    c = 1 ∨ (c = 2 ∨ c = 3 ∨ c = 4 ∨ c = 5) ∨ ∀ s, issue c s = badCommand s.start := by
  match hc : c.toNat with
  | 1 => exact .inl (code_eq hc)
  | 2 => exact .inr (.inl (.inl (code_eq hc)))
  | 3 => exact .inr (.inl (.inr (.inl (code_eq hc))))
  | 4 => exact .inr (.inl (.inr (.inr (.inl (code_eq hc)))))
  | 5 => exact .inr (.inl (.inr (.inr (.inr (code_eq hc)))))
  | 0 | n + 6 =>
    refine .inr (.inr fun s => ?_)
    unfold issue issueUnder
    rw [hc]
    rfl

/-- After every command `BUSY = 0` (`70_reset_and_hazards.md` R155). -/
theorem issue_busy {c : Byte} {s t : State} (h : issue c s = .next t) : t.busy = false := by
  rcases issue_cases h with ⟨_, -, rfl⟩ | ⟨-, _, rfl, -⟩ | ⟨-, rfl⟩ | ⟨-, rfl⟩ | ⟨-, _, _, rfl, -⟩ | ⟨-, _, -, rfl⟩ <;>
    rfl

/-- The instructions that are not in the table, packet-kind rows aside, are `badcmd` of a command's code; they act
as a reserved code does. -/
theorem exec_of_not_wf {i : Instr} {s : State} (hw : i.wf = false) (hi : isHeaderRow i = false) :
    exec i s = s.whenIdle (issue 0 s) := by
  cases i with
  | badcmd c => rfl
  | encode | decode | checksum | setcsum | verify | wbuf | rbuf | wreg | rreg => cases hw
  | connectReq | connectAck | fileReq | reqAck | data | dataAck | undefinedSynReq | undefinedSynAckReq => cases hi

/-- The buffer after `ENCODE`: the registers' bytes at offsets 0 to 7 (`40_codec.md` R92). -/
def State.headerStored (s : State) : Memory :=
  ((((s.memWrite 0 4 s.seq.toNat).memWrite 4 2 s.csum.toNat).memWrite 6 1 (s.flags &&& 0xE0#8).toNat).memWrite 7 1
    0x00).buf

theorem issue_encode (s : State) :
    issue 1 s = .next { s with buf := s.headerStored, code := .ok, busy := false } := rfl

/-- The four commands that read `LEN` answer `LEN_ERROR` or `MALFORMED_HEADER` and read nothing when it is illegal. -/
theorem issue_of_not_lengthOk {c : Byte} (hc : c = 2 ∨ c = 3 ∨ c = 4 ∨ c = 5) {s : State} (illegal : ¬ s.lengthOk) :
    issue c s = .next { s with code := if 1024 < s.len.toNat then .lenError else .malformedHeader, busy := false } := by
  have checked : ∀ k, s.start.whenLengthOk k =
      .next { s with code := if 1024 < s.len.toNat then .lenError else .malformedHeader, busy := false } := by
    intro k
    rcases s.start.whenLengthOk_cases k with ⟨long, e⟩ | ⟨short, e⟩ | ⟨ok, -⟩
    · rw [e, if_pos (by exact long)]
      rfl
    · rw [e, if_neg (by have : s.len.toNat < 8 := short; omega)]
      rfl
    · exact absurd ok illegal
  rcases hc with rfl | rfl | rfl | rfl <;> exact checked _

section LegalLength
variable {s : State} (ok : s.lengthOk)
include ok

theorem issue_decode :
    issue 2 s = .next { s.loadHeader with code := .ok, busy := false, draws := s.draws + 1 } :=
  State.whenLengthOk_of_ok (s := s.start) ok _

theorem issue_checksum :
    issue 3 s = .next { s with calcReg := checksum s.packet, code := .ok, busy := false, draws := s.draws + 1 } :=
  State.whenLengthOk_of_ok (s := s.start) ok _

theorem issue_setcsum :
    issue 4 s = .next
      { s with
        buf := s.storeChecksum.buf, csum := checksum s.packet, calcReg := checksum s.packet
        code := .ok, busy := false, draws := s.draws + 1 } := by
  rw [← s.checksum_packet_zeroedField]
  exact State.whenLengthOk_of_ok (s := s.start) ok _

theorem issue_verify :
    issue 5 s = .next
      { s with
        calcReg := checksum s.packet
        code := if (checksum s.packet).toNat = s.memRead 4 2 then .ok else .checksumMismatch
        busy := false, draws := s.draws + 1 } := by
  refine (State.whenLengthOk_of_ok (s := s.start) ok _).trans ?_
  rw [State.whenWrittenUnder_draw]
  by_cases equal : (checksum s.packet).toNat = s.memRead 4 2
  · rw [if_pos equal]
    exact if_neg (not_not.2 equal)
  · rw [if_neg equal]
    exact if_pos equal

/-! A command that finds its results already there changes nothing but, for `SETCSUM`, the bytes it stores. -/

theorem issue_decode_of_loaded (loaded : s.loadHeader = s) (hcode : s.code = .ok) (idle : s.busy = false) :
    issue 2 s = .next { s with draws := s.draws + 1 } := by
  rw [issue_decode ok, loaded, ← hcode, ← idle]

theorem issue_checksum_of_summed (hcalc : s.calcReg = checksum s.packet) (hcode : s.code = .ok)
    (idle : s.busy = false) : issue 3 s = .next { s with draws := s.draws + 1 } := by
  rw [issue_checksum ok, ← hcalc, ← hcode, ← idle]

theorem issue_setcsum_of_summed (hcsum : s.csum = checksum s.packet) (hcalc : s.calcReg = checksum s.packet)
    (hcode : s.code = .ok) (idle : s.busy = false) :
    issue 4 s = .next { s with buf := s.storeChecksum.buf, draws := s.draws + 1 } := by
  rw [issue_setcsum ok, ← hcode, ← idle]
  nth_rewrite 1 [← hcsum]
  rw [← hcalc]

theorem issue_verify_of_verified (hcalc : s.calcReg = checksum s.packet)
    (hcode : s.code = if (checksum s.packet).toNat = s.memRead 4 2 then .ok else .checksumMismatch)
    (idle : s.busy = false) : issue 5 s = .next { s with draws := s.draws + 1 } := by
  rw [issue_verify ok, ← hcode, ← hcalc, ← idle]

end LegalLength

/-! ### Packet-kind rows -/

/-- The state in which the receive script of a header word issues `DECODE` (log entry 1). -/
def State.headerPlaced (s : State) (w : Nat) : State := { s with buf := Memory.writeBE s.buf 0 8 w, len := 8 }

theorem receiveHeader_eq (h : BitVec 64) (s : State) :
    receiveHeader h s = s.whenIdle (issue 2 (s.headerPlaced h.toNat)) := rfl

theorem State.headerPlaced_lengthOk (s : State) (w : Nat) : (s.headerPlaced w).lengthOk :=
  ⟨Nat.le_refl 8, (by decide : 8 ≤ 1024)⟩

theorem State.headerPlaced_written (s : State) (w : Nat) {a : Nat} (ha : a < 8) :
    (s.headerPlaced w).written a = true := by
  have placed : Memory.read (Memory.writeBE s.buf 0 8 w) a = some _ :=
    (Memory.read_writeBE ..).trans (if_pos ⟨a.zero_le, by omega⟩)
  exact Option.isSome_iff_exists.2 ⟨_, placed⟩

theorem State.read_headerPlaced_again {s t : State} {w : Nat} (hbuf : t.buf = (s.headerPlaced w).buf) (a : Nat) :
    Memory.read (t.headerPlaced w).buf a = Memory.read t.buf a := by
  show Memory.read (Memory.writeBE t.buf 0 8 w) a = _
  rw [hbuf]
  exact Memory.read_writeBE_writeBE s.buf 0 8 w a

end Sys2Proof.Machine
end

section
/-! What a step can do, and what every step keeps: the buffer is only stored into, and the block is idle between steps
(`10_state.md` R23, R155). -/

namespace Sys2Proof.Machine

/-! ### A step, by its next input -/

/-- Everything a step can do, if it answers a next state: without an input nothing; an `rst` edge resets; of the
transactions, a cycle with neither strobe is only consumed, and an instruction runs. -/
theorem step_cases {s t : State} (h : step s = .next t) :
    (s.inputs = [] ∧ t = s)
    ∨ (∃ rest, s.inputs = .rst :: rest ∧ t = State.takeReset { s with inputs := rest })
    ∨ (∃ w rest, s.inputs = .txn w :: rest ∧ decode w = .error .noOperation ∧ t = { s with inputs := rest })
    ∨ (∃ w rest i, s.inputs = .txn w :: rest ∧ decode w = .ok i ∧ exec i { s with inputs := rest } = .next t) := by
  match hs : s.inputs with
  | [] =>
    simp only [step, stepWith, State.nextInput, hs] at h
    injection h with h
    exact .inl ⟨rfl, h.symm⟩
  | .rst :: rest =>
    simp only [step, stepWith, State.nextInput, hs, runInput] at h
    injection h with h
    exact .inr (.inl ⟨rest, rfl, h.symm⟩)
  | .txn w :: rest =>
    simp only [step, stepWith, State.nextInput, hs, runInput, runWord] at h
    split at h <;> rename_i hd
    · exact .inr (.inr (.inr ⟨w, rest, _, rfl, hd, h⟩))
    · injection h with h
      exact .inr (.inr (.inl ⟨w, rest, rfl, hd, h.symm⟩))
    · cases h

/-- Settles O6: the pending transaction leaves the queue and its instruction runs. -/
theorem stepRunsDecodedInstruction : Obligations.StepRunsDecodedInstruction := by
  refine ⟨fun s w rest i hs hd => stepWith_of_txn hs hd, fun s nbits w i hd => ?_, fun s hs => ?_⟩
  · have hw : decode ⟨nbits, w⟩ = .ok i := by
      unfold decodeTableWord at hd
      cases hdec : decode ⟨nbits, w⟩ with
      | ok j => simpa [hdec, Except.toOption] using hd
      | error e => simp [hdec, Except.toOption] at hd
    exact stepWith_of_txn (s.pushWord_inputs _) hw
  · simp only [step, stepWith, State.nextInput, hs]

/-! ### The buffer is only stored into -/

/-- The second buffer is the first after some stores inside the buffer. -/
def Memory.StoresTo : Memory → Memory → Prop :=
  Relation.ReflTransGen fun m m' => ∃ a d, a < 1024 ∧ m' = Memory.write m a d

/-- A big-endian store inside the buffer is a sequence of stores. -/
theorem Memory.storesTo_writeBE (m : Memory) {a n : Nat} (v : Nat) (ha : a + n ≤ 1024) :
    m.StoresTo (Memory.writeBE m a n v) := by
  induction n generalizing m a with
  | zero => exact .refl
  | succ n ih => exact .head ⟨a, _, by omega, rfl⟩ (ih _ (by omega))

/-- Stores keep the canonical form. -/
theorem Memory.StoresTo.wf {m m' : Memory} (h : m.StoresTo m') (hm : Memory.wf m) : Memory.wf m' := by
  induction h with
  | refl => exact hm
  | tail _ hstore ih =>
    obtain ⟨a, d, ha, rfl⟩ := hstore
    exact Memory.write_wf d ih ha

/-- Stores clear no written mark. -/
theorem Memory.StoresTo.isSome_read {m m' : Memory} (h : m.StoresTo m') {b : Nat}
    (hb : (Memory.read m b).isSome = true) : (Memory.read m' b).isSome = true := by
  induction h with
  | refl => exact hb
  | tail _ hstore ih =>
    obtain ⟨a, d, -, rfl⟩ := hstore
    rw [Memory.read_write]
    split
    · rfl
    · exact ih

/-- A command leaves the buffer as it was, or stores the header, or the checksum field. -/
theorem issue_storesTo {c : Byte} {s t : State} (h : issue c s = .next t) : s.buf.StoresTo t.buf := by
  rcases issue_cases h with ⟨_, -, rfl⟩ | ⟨rfl, -⟩ | ⟨-, rfl⟩ | ⟨-, rfl⟩ | ⟨rfl, -⟩ | ⟨-, _, -, rfl⟩
  · exact .refl
  · obtain rfl : _ = t := Host.Outcome.next.inj h
    exact (Memory.storesTo_writeBE _ _ (by omega)).trans <| (Memory.storesTo_writeBE _ _ (by omega)).trans <|
      (Memory.storesTo_writeBE _ _ (by omega)).trans (Memory.storesTo_writeBE _ _ (by omega))
  · exact .refl
  · exact .refl
  · have h' : s.start.whenLengthOk (.next s.start.storeChecksum.drawn.done) = .next t := h
    rcases s.start.whenLengthOk_cases (.next s.start.storeChecksum.drawn.done) with e | e | e <;>
      obtain rfl := Host.Outcome.next.inj (e.2.symm.trans h')
    · exact .refl
    · exact .refl
    · exact (Memory.storesTo_writeBE _ _ (by omega)).trans (Memory.storesTo_writeBE _ _ (by omega))
  · exact .refl

/-- An instruction stores into the buffer, and leaves the block idle if it was. -/
theorem exec_storesTo_and_idle {i : Instr} {s t : State} (h : exec i s = .next t) :
    s.buf.StoresTo t.buf ∧ (s.busy = false → t.busy = false) := by
  have command : ∀ {c}, issue c s = .next t → s.buf.StoresTo t.buf ∧ (s.busy = false → t.busy = false) :=
    fun h => ⟨issue_storesTo h, fun _ => issue_busy h⟩
  cases hi : isHeaderRow i with
  | true =>
    obtain ⟨w, he⟩ := exec_headerRow hi s
    obtain ⟨-, h⟩ := State.whenIdle_next (he ▸ h)
    have stored := issue_storesTo h
    rw [State.writeReg_buf] at stored
    exact ⟨(Memory.storesTo_writeBE s.buf _ (by omega)).trans stored, fun _ => issue_busy h⟩
  | false =>
    cases hw : i.wf with
    | false => exact command (State.whenIdle_next ((exec_of_not_wf hw hi).symm.trans h)).2
    | true =>
      rcases exec_cases hw h with ⟨c, -, -, hc⟩ | ⟨a, d, -, -, rfl⟩ | ⟨_, -, -, rfl⟩ | ⟨r, v, -, -, -, rfl⟩ |
        ⟨_, -, rfl⟩ | ⟨hi', -⟩
      · exact command hc
      · exact ⟨.single ⟨_, d, a.isLt, rfl⟩, id⟩
      · exact ⟨.refl, id⟩
      · exact ⟨by rw [State.writeReg_buf]; exact .refl, fun hb => (s.writeReg_busy r v).trans hb⟩
      · exact ⟨.refl, id⟩
      · cases hi.symm.trans hi'

/-- An `rst` edge answers the reset state's buffer and `BUSY`. -/
theorem State.takeReset_inv (s : State) : s.takeReset.Inv := ⟨Memory.nil_wf, rfl⟩

/-- Settles O33: an instruction only stores inside the buffer and ends idle; an `rst` edge empties the buffer. -/
theorem stepKeepsInv : Obligations.StepKeepsInv := by
  rintro s t ⟨hm, hb⟩ h
  rcases step_cases h with ⟨-, rfl⟩ | ⟨_, -, rfl⟩ | ⟨_, _, -, -, rfl⟩ | ⟨w, rest, i, -, -, hx⟩
  · exact ⟨hm, hb⟩
  · exact State.takeReset_inv _
  · exact ⟨hm, hb⟩
  · obtain ⟨stored, idle⟩ := exec_storesTo_and_idle hx
    exact ⟨stored.wf hm, idle hb⟩

/-- Settles O38: stores clear no mark, and no step but an `rst` edge does more than store. -/
theorem writtenMarksStay : Obligations.WrittenMarksStay := by
  intro s t a h noRst hw
  rcases step_cases h with ⟨-, rfl⟩ | ⟨_, hs, -⟩ | ⟨_, _, -, -, rfl⟩ | ⟨w, rest, i, -, -, hx⟩
  · exact hw
  · exact absurd (by rw [hs]; rfl) noRst
  · exact hw
  · exact (exec_storesTo_and_idle hx).1.isSome_read hw

/-! ### The reset state -/

/-- Settles O34: no byte is listed after reset. -/
theorem resetHasInv : Obligations.ResetHasInv := ⟨Memory.nil_wf, rfl⟩

/-- Settles O7: by the reset state's fields; the header of zeros is clean, so its kind does not depend on
`STRICT_RESERVED`. -/
theorem resetValues : Obligations.ResetValues :=
  ⟨rfl, rfl, rfl, rfl, rfl, rfl, rfl, rfl, by decide, fun _ => ⟨rfl, rfl⟩⟩

end Sys2Proof.Machine
end

section
/-! Who writes what: the instructions that change a register, or a byte of the buffer (`10_state.md` R10, R23); and what
a write leaves to be read. -/

namespace Sys2Proof.Machine

/-! ### Writers -/

/-- Which registers an issued command can change, by its code (`10_state.md` R10, the engine's column). -/
theorem issue_registers {c : Byte} {s t : State} (h : issue c s = .next t) :
    (t.seq ≠ s.seq → c = 2) ∧ (t.csum ≠ s.csum → c = 2 ∨ c = 4) ∧ (t.flags ≠ s.flags → c = 2)
    ∧ (t.rsvd ≠ s.rsvd → c = 2) ∧ t.len = s.len ∧ (t.calcReg ≠ s.calcReg → c = 3 ∨ c = 4 ∨ c = 5)
    ∧ t.regRdata = s.regRdata ∧ t.bufRdata = s.bufRdata := by
  rcases issue_cases h with ⟨_, -, rfl⟩ | ⟨rfl, _, rfl, -⟩ | ⟨rfl, rfl⟩ | ⟨rfl, rfl⟩ | ⟨rfl, _, _, rfl, -⟩ |
    ⟨rfl, _, -, rfl⟩ <;> simp

/-- Settles O36: a command by its code, a register write by its number, a read by the output it drives. -/
theorem registerWriters : Obligations.RegisterWriters := by
  intro i s t hw hi h
  rcases exec_cases hw h with ⟨c, hc, -, hx⟩ | ⟨a, d, -, -, rfl⟩ | ⟨a, rfl, -, rfl⟩ | ⟨r, v, rfl, -, -, rfl⟩ |
    ⟨r, rfl, rfl⟩ | ⟨hi', -⟩
  · obtain ⟨seq, csum, flags, rsvd, len, calcReg, regRdata, bufRdata⟩ := issue_registers hx
    have issues : ∀ {d}, c = d → Issues i d := fun e => e ▸ hc
    exact ⟨fun ne => .inr (issues (seq ne)), fun ne => .inr ((csum ne).imp issues issues),
      fun ne => .inr (issues (flags ne)), fun ne => issues (rsvd ne), fun ne => absurd len ne, fun _ => ⟨c, hc⟩,
      fun ne => (calcReg ne).imp issues (Or.imp issues issues), fun ne => absurd regRdata ne,
      fun ne => absurd bufRdata ne⟩
  · simp
  · simp
  · rcases writeReg_cases s r v with ⟨rfl, e⟩ | ⟨rfl, e⟩ | ⟨rfl, e⟩ | ⟨rfl, e⟩ | ⟨-, -, -, -, e⟩ <;> simp [e]
  · simp
  · cases hi.symm.trans hi'

/-- Which bytes an issued command can change: `ENCODE` the header, `SETCSUM` the checksum field. -/
theorem issue_bytes {c : Byte} {s t : State} {a : Nat} (h : issue c s = .next t)
    (ne : Memory.read t.buf a ≠ Memory.read s.buf a) : c = 1 ∧ a < 8 ∨ c = 4 ∧ (a = 4 ∨ a = 5) := by
  rcases issue_cases h with ⟨_, -, rfl⟩ | ⟨rfl, _, rfl, -, same⟩ | ⟨-, rfl⟩ | ⟨-, rfl⟩ | ⟨rfl, _, _, rfl, -, same⟩ |
    ⟨-, _, -, rfl⟩
  · exact absurd rfl ne
  · exact .inl ⟨rfl, Nat.lt_of_not_le fun ha => ne (same a ha)⟩
  · exact absurd rfl ne
  · exact absurd rfl ne
  · refine .inr ⟨rfl, ?_⟩
    by_contra hne
    exact ne (same a (fun h4 => hne (.inl h4)) (fun h5 => hne (.inr h5)))
  · exact absurd rfl ne

/-- Settles O37: a `WBUF` changes its own byte, a command what its code stores, nothing else any byte. -/
theorem bufferWriters : Obligations.BufferWriters := by
  intro i s t a hi h ne
  cases hw : i.wf with
  | false =>
    obtain ⟨-, hx⟩ := State.whenIdle_next ((exec_of_not_wf hw hi).symm.trans h)
    rcases issue_bytes hx ne with ⟨hc, -⟩ | ⟨hc, -⟩ <;> exact absurd hc (by decide)
  | true =>
    rcases exec_cases hw h with ⟨c, hc, -, hx⟩ | ⟨o, d, rfl, -, rfl⟩ | ⟨_, -, -, rfl⟩ | ⟨r, v, -, -, -, rfl⟩ |
      ⟨_, -, rfl⟩ | ⟨hi', -⟩
    · have issues : ∀ {d}, c = d → Issues i d := fun e => e ▸ hc
      exact .inr ((issue_bytes hx ne).imp (And.imp_left issues) (And.imp_left issues))
    · refine .inl ⟨o, d, rfl, ?_⟩
      by_contra ha
      exact ne (Memory.read_write_other _ d ha)
    · exact absurd rfl ne
    · exact absurd (by rw [State.writeReg_buf]) ne
    · exact absurd rfl ne
    · cases hi.symm.trans hi'

/-! ### A register written, then read -/

/-- The low `n` bits of a word, zero-extended, are the word under the mask of `n` ones. -/
theorem setWidth_setWidth_eq_and (v : Word) (n : Nat) (hn : n ≤ 32) :
    (v.setWidth n).setWidth 32 = v &&& BitVec.ofNat 32 (2 ^ n - 1) := by
  have pow_le : 2 ^ n ≤ 2 ^ 32 := Nat.pow_le_pow_right (by decide) hn
  have mask_lt : 2 ^ n - 1 < 2 ^ 32 := by have := Nat.two_pow_pos n; omega
  apply BitVec.eq_of_toNat_eq
  rw [BitVec.toNat_and, BitVec.toNat_ofNat, Nat.mod_eq_of_lt mask_lt, Nat.and_two_pow_sub_one_eq_mod,
    BitVec.toNat_setWidth, BitVec.toNat_setWidth]
  exact Nat.mod_eq_of_lt ((Nat.mod_lt _ (Nat.two_pow_pos n)).trans_le pow_le)

/-- What a register other than `CMD` reads after a write to it: the storage registers the data under their width, the
others what they held. -/
theorem State.readReg_writeReg {r : RegNum} (s : State) (v : Word) :
    (s.writeReg r v).readReg r =
      (if r = 0 then v
       else if r = 1 then v &&& 0xFFFF
       else if r = 2 then v &&& 0xFF
       else if r = 4 then v &&& 0x7FF
       else s.readReg r) := by
  rcases writeReg_cases s r v with ⟨rfl, e⟩ | ⟨rfl, e⟩ | ⟨rfl, e⟩ | ⟨rfl, e⟩ | ⟨h0, h1, h2, h4, e⟩ <;> rw [e]
  · rfl
  · exact setWidth_setWidth_eq_and v 16 (by decide)
  · exact setWidth_setWidth_eq_and v 8 (by decide)
  · exact setWidth_setWidth_eq_and v 11 (by decide)
  · exact ((if_neg h0).trans <| (if_neg h1).trans <| (if_neg h2).trans (if_neg h4)).symm

/-- Settles O15: the write stores the low bits, the read returns what the write left. -/
theorem writeThenReadRegister : Obligations.WriteThenReadRegister := by
  intro r v s idle hr
  have idle' : (s.writeReg r v).busy = false := (s.writeReg_busy r v).trans idle
  exact ⟨_, runOps_pair (exec_wreg idle hr v) (exec_rreg idle' r), s.readReg_writeReg v, s.writeReg_code r v,
    s.writeReg_busy r v, s.writeReg_buf r v⟩

/-- Settles O48: `KIND` is computed from the two registers, which the write and the `DECODE` have just set. -/
theorem kindFollowsRegisters : Obligations.KindFollowsRegisters := by
  intro s idle
  refine ⟨fun v => ?_, fun ok => ?_⟩
  · have written : exec (.wreg 2 v) s = .next { s with flags := v.setWidth 8 } := by
      rw [exec_wreg idle (by decide), ← low_bits v 8]
      rfl
    exact ⟨_, runOps_pair written (exec_rreg (by exact idle) 8), State.readReg_kind _⟩
  · have length : 8 ≤ s.len.toNat := ok.1
    have decoded : exec .decode s = .next { s.loadHeader with code := .ok, busy := false, draws := s.draws + 1 } :=
      (State.whenIdle_of_idle idle _).trans (issue_decode ok)
    refine ⟨_, runOps_pair decoded (exec_rreg rfl 8), (State.readReg_kind _).trans ?_⟩
    rw [← State.ofNat_memRead_byte (a := 6) (by omega), ← State.ofNat_memRead_byte (a := 7) (by omega)]
    rfl

end Sys2Proof.Machine
end

section
/-! Operations repeated (`10_state.md` R24, R46; `70_reset_and_hazards.md` R154): each reads the same the second
time. -/

namespace Sys2Proof.Machine

/-! ### Operations that may be repeated -/

/-- An operation completes, and once more leaves every register and every byte as the first time. -/
def Repeatable (run : State → Result) (s : State) : Prop :=
  ∃ t m d, run s = .next t ∧ run t = .next { t with buf := m, draws := d } ∧ ∀ a, Memory.read m a = Memory.read t.buf a

/-- An operation that the second time changes at most the draw counter. -/
theorem Repeatable.of_same {run : State → Result} {s t : State} {d : Nat} (first : run s = .next t)
    (second : run t = .next { t with draws := d }) : Repeatable run s :=
  ⟨t, t.buf, d, first, second, fun _ => rfl⟩

/-- The guard against a busy block lets a repetition through when the operation ends idle. -/
theorem Repeatable.whenIdle {run : State → Result} {s : State} (idle : s.busy = false)
    (ends : ∀ t, run s = .next t → t.busy = false) (h : Repeatable run s) :
    Repeatable (fun s => s.whenIdle (run s)) s := by
  obtain ⟨t, m, d, first, second, same⟩ := h
  exact ⟨t, m, d, (State.whenIdle_of_idle idle _).trans first,
    (State.whenIdle_of_idle (ends t first) _).trans second, same⟩

/-! ### Commands repeated -/

theorem repeatable_encode (s : State) : Repeatable (issue 1) s := by
  refine ⟨_, _, _, issue_encode s, issue_encode _, fun a => ?_⟩
  simp only [State.headerStored, State.memWrite_buf, Memory.read_writeBE]
  split_ifs <;> rfl

theorem repeatable_badCommand {c : Byte} (h : ∀ s, issue c s = badCommand s.start) (s : State) :
    Repeatable (issue c) s :=
  .of_same (h s) (h _)

theorem repeatable_of_not_lengthOk {c : Byte} (hc : c = 2 ∨ c = 3 ∨ c = 4 ∨ c = 5) {s : State}
    (illegal : ¬ s.lengthOk) : Repeatable (issue c) s :=
  .of_same (issue_of_not_lengthOk hc illegal) (issue_of_not_lengthOk hc illegal)

section Reading
variable {s : State} (ok : s.lengthOk)
include ok

theorem repeatable_decode (written : ∀ a, a < 8 → s.written a = true) : Repeatable (issue 2) s := by
  refine .of_same (issue_decode ok) (issue_decode_of_loaded (by exact ok) ?_ rfl rfl)
  exact State.loadHeader_of_loaded (s := s) (fun a ha => State.byteAt_of_written (written a ha) rfl) rfl rfl rfl rfl

theorem repeatable_checksum (written : ∀ a, a < s.len.toNat → a ≠ 4 → a ≠ 5 → s.written a = true) :
    Repeatable (issue 3) s := by
  refine .of_same (issue_checksum ok) (issue_checksum_of_summed (by exact ok) (Eq.symm ?_) rfl rfl)
  exact State.checksum_packet_congr (s := s) rfl fun a ha h4 h5 => State.byteAt_of_written (written a ha h4 h5) rfl

/-- The second `SETCSUM` sums the same bytes, so it stores the same field. -/
theorem repeatable_setcsum (written : ∀ a, a < s.len.toNat → a ≠ 4 → a ≠ 5 → s.written a = true) :
    Repeatable (issue 4) s := by
  have sum : ∀ {t : State}, t.len = s.len → t.buf = s.storeChecksum.buf → checksum t.packet = checksum s.packet :=
    fun hl hbuf => State.checksum_packet_congr hl fun a ha h4 h5 =>
      State.byteAt_of_written (written a ha h4 h5) (by rw [hbuf, State.read_storeChecksum, if_neg (by omega)])
  refine ⟨_, _, _, issue_setcsum ok, issue_setcsum_of_summed (by exact ok) ?_ ?_ rfl rfl, fun a => ?_⟩
  · exact Eq.symm (sum rfl rfl)
  · exact Eq.symm (sum rfl rfl)
  · refine State.read_storeChecksum_again (s := s) ?_ ?_ a
    · exact sum rfl rfl
    · rfl

theorem repeatable_verify (written : s.writtenFrom 0) : Repeatable (issue 5) s := by
  have length : 8 ≤ s.len.toNat := ok.1
  have same : ∀ {t : State}, t.buf = s.buf → ∀ a, a < s.len.toNat → t.byteAt a = s.byteAt a := fun hbuf a ha =>
    State.byteAt_of_written (written a a.zero_le ha) (by rw [hbuf])
  have agree : ∀ {t : State}, t.len = s.len → t.buf = s.buf → checksum t.packet = checksum s.packet
      ∧ ((checksum t.packet).toNat = t.memRead 4 2 ↔ (checksum s.packet).toNat = s.memRead 4 2) := fun hl hbuf => by
    rw [State.packet_congr hl (same hbuf), State.memRead_congr fun b _ hb => same hbuf b (by omega)]
    exact ⟨rfl, Iff.rfl⟩
  refine .of_same (issue_verify ok) (issue_verify_of_verified (by exact ok) (Eq.symm ?_) (Eq.symm ?_) rfl)
  · exact And.left (agree rfl rfl)
  · exact if_congr (And.right (agree rfl rfl)) rfl rfl

end Reading

/-- A command may be repeated when the bytes it reads have been written. -/
theorem repeatable_of_issues {i : Instr} {c : Byte} {s : State} (hi : Issues i c) (idle : s.busy = false)
    (hr : ReadsWritten i s) : Repeatable (exec i) s := by
  rw [funext (exec_of_issues hi)]
  refine .whenIdle idle (fun _ => issue_busy) ?_
  rcases issue_code_cases c with rfl | reading | reserved
  · exact repeatable_encode s
  · by_cases ok : s.lengthOk
    · have length : 8 ≤ s.len.toNat := ok.1
      rcases reading with rfl | rfl | rfl | rfl
      · exact repeatable_decode ok fun a ha => hr a (.inr ⟨ok, by omega, .inl ⟨hi, ha⟩⟩)
      · exact repeatable_checksum ok fun a ha h4 h5 => hr a (.inr ⟨ok, ha, .inr (.inl ⟨.inl hi, h4, h5⟩)⟩)
      · exact repeatable_setcsum ok fun a ha h4 h5 => hr a (.inr ⟨ok, ha, .inr (.inl ⟨.inr hi, h4, h5⟩)⟩)
      · exact repeatable_verify ok fun a _ ha => hr a (.inr ⟨ok, ha, .inr (.inr hi)⟩)
    · exact repeatable_of_not_lengthOk reading ok
  · exact repeatable_badCommand reserved s

/-! ### Packet-kind rows and port operations repeated -/

/-- The receive script of a packet-kind row places the same header again and decodes it again. -/
theorem repeatable_receiveHeader (w : Nat) (s : State) : Repeatable (fun s => issue 2 (s.headerPlaced w)) s := by
  refine ⟨_, _, _, issue_decode (s.headerPlaced_lengthOk w),
    issue_decode_of_loaded (State.headerPlaced_lengthOk _ w) (State.loadHeader_of_loaded (s := s.headerPlaced w)
      (fun a ha => State.byteAt_of_written (s.headerPlaced_written w ha) ?header) ?_ ?_ ?_ ?_) ?_ ?_, fun a => ?bytes⟩
  case header => exact State.read_headerPlaced_again (s := s) rfl a
  case bytes => exact State.read_headerPlaced_again (s := s) rfl a
  all_goals rfl

theorem repeatable_wbuf {s : State} (idle : s.busy = false) (a : Offset) (d : Byte) :
    Repeatable (exec (.wbuf a d)) s := by
  refine ⟨_, _, _, exec_wbuf idle a d, exec_wbuf (by exact idle) a d, fun b => ?_⟩
  rw [State.writeByte_buf, Memory.read_write]
  split
  · rename_i hb
    rw [Memory.read_write, if_pos hb]
  · rfl

theorem repeatable_rbuf {s : State} (idle : s.busy = false) {a : Offset} (written : s.written a.toNat = true) :
    Repeatable (exec (.rbuf a)) s := by
  have again : ∀ {t : State}, t.busy = false → t.bufRdata = t.byteAt a.toNat →
      exec (.rbuf a) t = .next { t with draws := t.draws + 1 } := fun idle' hd => by rw [exec_rbuf idle', ← hd]
  refine .of_same (exec_rbuf idle a) (again (by exact idle) (Eq.symm ?_))
  exact State.byteAt_of_written (s := s) written rfl

/-- Settles O41: a command reads the same written bytes again, a port operation or packet-kind row stores or reads the
same value again. -/
theorem commandsAreIdempotent : Obligations.CommandsAreIdempotent := by
  intro i s idle hr
  have header : isHeaderRow i = true → Repeatable (exec i) s := fun hi => by
    obtain ⟨h, he⟩ := execUnder_headerRow hi
    rw [funext fun s => (execUnder_draw i s).symm.trans ((he .draw s).trans (receiveHeader_eq h s))]
    exact .whenIdle idle (fun _ => issue_busy) (repeatable_receiveHeader h.toNat s)
  show Repeatable (exec i) s
  cases i with
  | encode => exact repeatable_of_issues (c := 1) (.inl rfl) idle hr
  | decode => exact repeatable_of_issues (c := 2) (.inl rfl) idle hr
  | checksum => exact repeatable_of_issues (c := 3) (.inl rfl) idle hr
  | setcsum => exact repeatable_of_issues (c := 4) (.inl rfl) idle hr
  | verify => exact repeatable_of_issues (c := 5) (.inl rfl) idle hr
  | badcmd c => exact .whenIdle idle (fun _ => issue_busy (c := 0)) (repeatable_badCommand (c := 0) (fun _ => rfl) s)
  | wbuf a d => exact repeatable_wbuf idle a d
  | rbuf a => exact repeatable_rbuf idle (hr _ (.inl ⟨a, rfl, rfl⟩))
  | wreg r v =>
    by_cases h5 : r = 5
    · exact repeatable_of_issues (.inr ⟨v, by rw [h5]; rfl, rfl⟩) idle hr
    · have idle' : (s.writeReg r v).busy = false := (s.writeReg_busy r v).trans idle
      have again := exec_wreg idle' h5 v
      rw [State.writeReg_writeReg] at again
      exact .of_same (exec_wreg idle h5 v) again
  | rreg r => exact .of_same (exec_rreg idle r) (exec_rreg (by exact idle) r)
  | connectReq | connectAck | fileReq | reqAck | data | dataAck | undefinedSynReq | undefinedSynAckReq =>
    exact header rfl

end Sys2Proof.Machine
end

section
/-! Host scripts over the buffer (`20_memory.md` R43, R52): the bytes a host reads after `ENCODE`, and the script that
hands a header word to `DECODE`. -/

namespace Sys2Proof.Machine

/-! ### Scripts -/

/-- A script whose first instruction completes. -/
theorem runOps_cons_of_next {i : Instr} {s t : State} (hi : exec i s = .next t) (is : List Instr) :
    runOps (i :: is) s = runOps is t := by
  simp only [runOps, hi]

/-- A script whose first instruction is refused. -/
theorem runOps_cons_of_refused {i : Instr} {s : State} {r : Refusal} (hi : exec i s = .refused r) (is : List Instr) :
    runOps (i :: is) s = .refused r := by
  simp only [runOps, hi]

theorem runOps_singleton (i : Instr) (s : State) : runOps [i] s = exec i s := by
  cases h : exec i s with
  | next t => exact runOps_cons_of_next h []
  | fault r => cases r
  | refused r => exact runOps_cons_of_refused h []

/-- The buffer after bytes stored one by one from an offset on. -/
def Memory.writeBytes : Memory → Nat → List Byte → Memory
  | m, _, [] => m
  | m, a, d :: ds => Memory.writeBytes (Memory.write m a d) (a + 1) ds

/-- A script that begins with `wbufs` inside the buffer stores the bytes and goes on (`42_host_access.md` R128). -/
theorem runOps_wbufs_append {s : State} (idle : s.busy = false) {a : Nat} {ds : List Byte}
    (fits : a + ds.length ≤ 1024) (is : List Instr) :
    runOps (wbufs a ds ++ is) s = runOps is { s with buf := Memory.writeBytes s.buf a ds } := by
  induction ds generalizing a s with
  | nil => rfl
  | cons d ds ih =>
    rw [List.length_cons] at fits
    have offset : (BitVec.ofNat 10 a).toNat = a := Nat.mod_eq_of_lt (by omega)
    have first : exec (.wbuf (BitVec.ofNat 10 a) d) s = .next (s.writeByte a d) := by rw [exec_wbuf idle, offset]
    exact (runOps_cons_of_next first _).trans (ih (s := s.writeByte a d) idle (by omega))

/-! ### The bytes of `ENCODE` -/

/-- The bits of the flags byte that an encoder keeps are those of the three flags (`40_codec.md` R90). -/
theorem flagsByte_of_flags (flags : Byte) :
    flagsByte (synOf flags) (ackOf flags) (reqOf flags) = flags &&& 0xE0#8 := by
  revert flags
  decide

/-- The buffer after `ENCODE`: `EncodeHeader` of the registers at offsets 0 to 7 (`40_codec.md` R90, R92). -/
theorem State.read_headerStored (s : State) (a : Nat) :
    Memory.read s.headerStored a =
      if a < 8 then (encodeHeader s.seq s.csum (synOf s.flags) (ackOf s.flags) (reqOf s.flags))[a]?
      else Memory.read s.buf a := by
  simp only [State.headerStored, State.memWrite_buf, Memory.read_writeBE, ofNat_shiftRight_toNat, encodeHeader,
    flagsByte_of_flags]
  by_cases header : a < 8
  · interval_cases a <;> simp
  · rw [if_neg (by omega), if_neg (by omega), if_neg (by omega), if_neg (by omega), if_neg header]

/-- After `ENCODE` an `RBUF` of a header offset gives the byte of `EncodeHeader` there. -/
theorem runOps_encode_rbuf {s : State} (idle : s.busy = false) {a : Offset} {b : Byte} (header : a.toNat < 8)
    (hb : (encodeHeader s.seq s.csum (synOf s.flags) (ackOf s.flags) (reqOf s.flags))[a.toNat]? = some b) :
    ∃ t, runOps [.encode, .rbuf a] s = .next t ∧ t.bufRdata = b := by
  have encoded : exec .encode s = .next { s with buf := s.headerStored, code := .ok, busy := false } :=
    (State.whenIdle_of_idle idle _).trans (issue_encode s)
  have stored : Memory.read s.headerStored a.toNat = some b :=
    (s.read_headerStored a.toNat).trans ((if_pos header).trans hb)
  exact ⟨_, runOps_pair encoded (exec_rbuf rfl a), State.byteAt_of_read stored⟩

/-- Settles O23: the four offsets hold bytes of `EncodeHeader`, which puts the most significant byte first. -/
theorem encodedBytesAsTheHostReadsThem : Obligations.EncodedBytesAsTheHostReadsThem := fun _ idle =>
  ⟨runOps_encode_rbuf idle (by decide) rfl, runOps_encode_rbuf idle (by decide) rfl,
    runOps_encode_rbuf idle (by decide) rfl, runOps_encode_rbuf idle (by decide) rfl⟩

/-! ### The script of a packet-kind row -/

/-- The bytes of a header word, stored one by one, are its one big-endian store (`30_encoding.md` R60). -/
theorem Memory.writeBytes_headerBytes (m : Memory) (a : Nat) (h : BitVec 64) :
    Memory.writeBytes m a (headerBytes h) = Memory.writeBE m a 8 h.toNat := by
  simp only [headerBytes, Memory.writeBytes, Memory.writeBE, ofNat_shiftRight_toNat]

/-- The meaning of a packet-kind row is the script of R52, in a busy state too: both are refused (log entry 1). -/
theorem receiveHeader_eq_script (h : BitVec 64) (s : State) :
    receiveHeader h s = runOps (wbufs 0 (headerBytes h) ++ [.wreg 4 8, .decode]) s := by
  rw [receiveHeader_eq]
  cases busy : s.busy with
  | true =>
    have refused : exec (.wbuf 0 (h.extractLsb' 56 8)) s = .refused .portWhileBusy := State.whenIdle_of_busy busy _
    exact (State.whenIdle_of_busy busy _).trans (runOps_cons_of_refused refused _).symm
  | false =>
    have length : exec (.wreg 4 8) (s.memWrite 0 8 h.toNat) = .next (s.headerPlaced h.toNat) :=
      exec_wreg (r := 4) (s := s.memWrite 0 8 h.toNat) busy (by decide) 8
    symm
    calc runOps (wbufs 0 (headerBytes h) ++ [.wreg 4 8, .decode]) s
        = runOps [.wreg 4 8, .decode] (s.memWrite 0 8 h.toNat) := by
          rw [runOps_wbufs_append busy (by simp [headerBytes]), Memory.writeBytes_headerBytes]
          rfl
      _ = exec .decode (s.headerPlaced h.toNat) := by rw [runOps_cons_of_next length, runOps_singleton]
      _ = issue 2 (s.headerPlaced h.toNat) := State.whenIdle_of_idle (s := s.headerPlaced h.toNat) busy _
      _ = s.whenIdle (issue 2 (s.headerPlaced h.toNat)) := (State.whenIdle_of_idle busy _).symm

/-- Settles O49: each row receives the header word of its flag set. -/
theorem headerRowIsDecodeScript : Obligations.HeaderRowIsDecodeScript := by
  intro seq csum mbz s p hp
  suffices row : exec p.1 s = receiveHeader (headerWord seq csum p.2 mbz) s from
    row.trans (receiveHeader_eq_script _ s)
  simp only [List.mem_cons, List.not_mem_nil, or_false] at hp
  rcases hp with rfl | rfl | rfl | rfl | rfl | rfl | rfl | rfl <;> rfl

end Sys2Proof.Machine
end

section
/-! The decoder undoes the encoder (`30_encoding.md` R60, R74, R77), and whatever decodes is an encoding, up to the data
lines a read ignores. -/

namespace Sys2Proof

open Sys2Proof.Machine

/-! ### Commands -/

theorem decodeCmd8_of_reserved {c : Byte} (h : reservedCode c = true) : decodeCmd8 c = .badcmd c := by
  have reserved : c.toNat = 0 ∨ 6 ≤ c.toNat := of_decide_eq_true h
  unfold decodeCmd8
  split
  case h_6 => rfl
  all_goals omega

theorem wf_decodeCmd8 (c : Byte) : (decodeCmd8 c).wf = true := by
  unfold decodeCmd8
  match hc : c.toNat with
  | 1 | 2 | 3 | 4 | 5 => rfl
  | 0 | n + 6 => exact decide_eq_true (by omega : c.toNat = 0 ∨ 6 ≤ c.toNat)

theorem encode_decodeCmd8 (c : Byte) : encode (decodeCmd8 c) = .of c := by
  unfold decodeCmd8
  split
  case h_6 => rfl
  all_goals
    rename_i hc
    rw [code_eq hc]
    rfl

/-! ### Port operations -/

/-- The four values of a port's two strobes, write strobe first. -/
theorem strobes_cases (t : BitVec 2) : t = 0b00#2 ∨ t = 0b01#2 ∨ t = 0b10#2 ∨ t = 0b11#2 := by
  revert t
  decide

section Ports
variable (a : Offset) (d : Byte) (r : RegNum) (v : Word)

theorem decodeBufPort_neither : decodeBufPort (0b00#2 ++ a ++ d) = .error .noOperation := by
  simp only [decodeBufPort, bufPort_fields]
  rfl

theorem decodeBufPort_read : decodeBufPort (0b01#2 ++ a ++ d) = .ok (.rbuf a) := by
  simp only [decodeBufPort, bufPort_fields]
  rfl

theorem decodeBufPort_write : decodeBufPort (0b10#2 ++ a ++ d) = .ok (.wbuf a d) := by
  simp only [decodeBufPort, bufPort_fields]
  rfl

theorem decodeBufPort_both : decodeBufPort (0b11#2 ++ a ++ d) = .error .bothStrobes := by
  simp only [decodeBufPort, bufPort_fields]
  rfl

theorem decodeRegPort_neither : decodeRegPort (0b00#2 ++ r ++ v) = .error .noOperation := by
  simp only [decodeRegPort, regPort_fields]
  rfl

theorem decodeRegPort_read : decodeRegPort (0b01#2 ++ r ++ v) = .ok (.rreg r) := by
  simp only [decodeRegPort, regPort_fields]
  rfl

theorem decodeRegPort_write : decodeRegPort (0b10#2 ++ r ++ v) = .ok (.wreg r v) := by
  simp only [decodeRegPort, regPort_fields]
  rfl

theorem decodeRegPort_both : decodeRegPort (0b11#2 ++ r ++ v) = .error .bothStrobes := by
  simp only [decodeRegPort, regPort_fields]
  rfl

end Ports

/-! ### Packet kinds -/

/-- The packet-kind row of a flag set (`30_encoding.md` R70 to R72). -/
def headerRow (flagSet : BitVec 3) (seq : Word) (csum : Half) (mbz : BitVec 13) : Instr :=
  match flagSet.toNat with
  | 0 => .data seq csum mbz
  | 1 => .fileReq seq csum mbz
  | 2 => .dataAck seq csum mbz
  | 3 => .reqAck seq csum mbz
  | 4 => .connectReq seq csum mbz
  | 5 => .undefinedSynReq seq csum mbz
  | 6 => .connectAck seq csum mbz
  | _ => .undefinedSynAckReq seq csum mbz

theorem flagSet_cases (fs : BitVec 3) :
    fs = 0b000#3 ∨ fs = 0b001#3 ∨ fs = 0b010#3 ∨ fs = 0b011#3
    ∨ fs = 0b100#3 ∨ fs = 0b101#3 ∨ fs = 0b110#3 ∨ fs = 0b111#3 := by
  revert fs
  decide

section HeaderRows
variable (fs : BitVec 3) (seq : Word) (csum : Half) (mbz : BitVec 13)

theorem wf_headerRow : (headerRow fs seq csum mbz).wf = admittedMbz mbz := by
  unfold headerRow
  split <;> rfl

theorem encode_headerRow : encode (headerRow fs seq csum mbz) = .of (headerWord seq csum fs mbz) := by
  rcases flagSet_cases fs with rfl | rfl | rfl | rfl | rfl | rfl | rfl | rfl <;> rfl

/-- A header word matches the row of its flag set, when its must-be-zero bits are admitted (`30_encoding.md` R71). -/
theorem decodeHdr64_headerWord :
    decodeHdr64 (headerWord seq csum fs mbz) =
      if admittedMbz mbz then .ok (headerRow fs seq csum mbz) else .error .undefinedHeader := by
  simp only [decodeHdr64, headerWord_fields]
  rcases flagSet_cases fs with rfl | rfl | rfl | rfl | rfl | rfl | rfl | rfl <;> rfl

/-- An admitted header row is decoded from its pattern. -/
theorem decode_of_headerWord (admitted : admittedMbz mbz = true) :
    decode (.of (headerWord seq csum fs mbz)) = .ok (headerRow fs seq csum mbz) := by
  rw [decode_of_hdr64, decodeHdr64_headerWord, if_pos admitted]

end HeaderRows

/-- Settles O1: each format's decoder reads the fields the encoder put together. -/
theorem decodeOfEncode : Obligations.DecodeOfEncode := by
  intro i hw
  cases i with
  | encode | decode | checksum | setcsum | verify => exact decode_of_cmd8 _
  | badcmd c => exact (decode_of_cmd8 c).trans (congrArg _ (decodeCmd8_of_reserved hw))
  | wbuf a d => exact (decode_of_bufPort _).trans (decodeBufPort_write a d)
  | rbuf a => exact (decode_of_bufPort _).trans (decodeBufPort_read a 0)
  | wreg r v => exact (decode_of_regPort _).trans (decodeRegPort_write r v)
  | rreg r => exact (decode_of_regPort _).trans (decodeRegPort_read r 0)
  | connectReq seq csum mbz => exact decode_of_headerWord 0b100 seq csum mbz hw
  | connectAck seq csum mbz => exact decode_of_headerWord 0b110 seq csum mbz hw
  | fileReq seq csum mbz => exact decode_of_headerWord 0b001 seq csum mbz hw
  | reqAck seq csum mbz => exact decode_of_headerWord 0b011 seq csum mbz hw
  | data seq csum mbz => exact decode_of_headerWord 0b000 seq csum mbz hw
  | dataAck seq csum mbz => exact decode_of_headerWord 0b010 seq csum mbz hw
  | undefinedSynReq seq csum mbz => exact decode_of_headerWord 0b101 seq csum mbz hw
  | undefinedSynAckReq seq csum mbz => exact decode_of_headerWord 0b111 seq csum mbz hw

/-! ### Whatever decodes is an encoding

A word of each format is its fields put together. -/

theorem exists_bufPort_fields (w : BitVec 20) : ∃ (t : BitVec 2) (a : Offset) (d : Byte), w = t ++ a ++ d := by
  refine ⟨w.extractLsb' 18 2, w.extractLsb' 8 10, w.extractLsb' 0 8, ?_⟩
  simp only [BitVec.extractLsb'_append_extractLsb'_eq_extractLsb', field_all]

theorem exists_regPort_fields (w : BitVec 38) : ∃ (t : BitVec 2) (r : RegNum) (v : Word), w = t ++ r ++ v := by
  refine ⟨w.extractLsb' 36 2, w.extractLsb' 32 4, w.extractLsb' 0 32, ?_⟩
  simp only [BitVec.extractLsb'_append_extractLsb'_eq_extractLsb', field_all]

theorem exists_headerWord (w : BitVec 64) : ∃ seq csum fs mbz, w = headerWord seq csum fs mbz := by
  refine ⟨w.extractLsb' 32 32, w.extractLsb' 16 16, w.extractLsb' 13 3, w.extractLsb' 0 13, ?_⟩
  simp only [headerWord, BitVec.extractLsb'_append_extractLsb'_eq_extractLsb', field_all]

/-- How many data lines of an instruction's pattern the block ignores: those of the two reads (`30_encoding.md` R77). -/
def ignoredLines : Instr → Nat
  | .rbuf _ => 8
  | .rreg _ => 32
  | _ => 0

/-- The pattern is the encoding of the well-formed instruction, but for the data lines that a read ignores (log
entry 9). -/
structure IsPatternOf (p : PortWord) (i : Instr) : Prop where
  wf : i.wf = true
  width : p.width = (encode i).width
  bits : p.bits >>> ignoredLines i = (encode i).bits >>> ignoredLines i

theorem isPatternOf_encode {i : Instr} (hw : i.wf = true) : IsPatternOf (encode i) i := ⟨hw, rfl, rfl⟩

/-- What is left above the low part of an append. -/
theorem toNat_append_shiftRight {n m : Nat} (x : BitVec n) (y : BitVec m) : (x ++ y).toNat >>> m = x.toNat := by
  rw [BitVec.toNat_append, Nat.shiftRight_or_distrib, Nat.shiftLeft_shiftRight, Nat.shiftRight_eq_zero _ _ y.isLt,
    Nat.or_zero]

theorem isPatternOf_rbuf (a : Offset) (d : Byte) : IsPatternOf (.of (0b01#2 ++ a ++ d)) (.rbuf a) :=
  ⟨rfl, rfl, (toNat_append_shiftRight _ d).trans (toNat_append_shiftRight _ 0#8).symm⟩

theorem isPatternOf_rreg (r : RegNum) (v : Word) : IsPatternOf (.of (0b01#2 ++ r ++ v)) (.rreg r) :=
  ⟨rfl, rfl, (toNat_append_shiftRight _ v).trans (toNat_append_shiftRight _ 0#32).symm⟩

theorem isPatternOf_decodeCmd8 (c : Byte) : IsPatternOf (.of c) (decodeCmd8 c) :=
  encode_decodeCmd8 c ▸ isPatternOf_encode (wf_decodeCmd8 c)

theorem isPatternOf_of_decodeBufPort {w : BitVec 20} {i : Instr} (h : decodeBufPort w = .ok i) :
    IsPatternOf (.of w) i := by
  obtain ⟨t, a, d, rfl⟩ := exists_bufPort_fields w
  rcases strobes_cases t with rfl | rfl | rfl | rfl
  · cases (decodeBufPort_neither a d).symm.trans h
  · cases (decodeBufPort_read a d).symm.trans h
    exact isPatternOf_rbuf a d
  · cases (decodeBufPort_write a d).symm.trans h
    exact isPatternOf_encode (i := .wbuf a d) rfl
  · cases (decodeBufPort_both a d).symm.trans h

theorem isPatternOf_of_decodeRegPort {w : BitVec 38} {i : Instr} (h : decodeRegPort w = .ok i) :
    IsPatternOf (.of w) i := by
  obtain ⟨t, r, v, rfl⟩ := exists_regPort_fields w
  rcases strobes_cases t with rfl | rfl | rfl | rfl
  · cases (decodeRegPort_neither r v).symm.trans h
  · cases (decodeRegPort_read r v).symm.trans h
    exact isPatternOf_rreg r v
  · cases (decodeRegPort_write r v).symm.trans h
    exact isPatternOf_encode (i := .wreg r v) rfl
  · cases (decodeRegPort_both r v).symm.trans h

theorem isPatternOf_of_decodeHdr64 {w : BitVec 64} {i : Instr} (h : decodeHdr64 w = .ok i) :
    IsPatternOf (.of w) i := by
  obtain ⟨seq, csum, fs, mbz, rfl⟩ := exists_headerWord w
  rw [decodeHdr64_headerWord] at h
  split at h
  · rename_i admitted
    cases h
    rw [← encode_headerRow]
    exact isPatternOf_encode ((wf_headerRow fs seq csum mbz).trans admitted)
  · cases h

/-- A pattern that decodes has no bit above its format. -/
theorem bits_lt_of_decode {w : PortWord} {i : Instr} (h : decode w = .ok i) : w.bits < 2 ^ formatBits w.width := by
  by_contra above
  rw [decode, if_neg above] at h
  cases h

/-- Whatever decodes, decodes by its format's bits to an instruction whose pattern they are (`30_encoding.md` R77; log
entry 8). -/
theorem isPatternOf_of_decode {w : PortWord} {i : Instr} (h : decode w = .ok i) :
    IsPatternOf ⟨formatBits w.width, w.bits⟩ i := by
  have fits := bits_lt_of_decode h
  rw [decode, if_pos fits] at h
  have ofFormat : ∀ {n}, w.bits < 2 ^ n → (⟨n, w.bits⟩ : PortWord) = .of (BitVec.ofNat n w.bits) := fun hn => by
    rw [PortWord.of, BitVec.toNat_ofNat, Nat.mod_eq_of_lt hn]
  split at h <;> rename_i format
  · rw [format] at fits ⊢
    cases h
    exact ofFormat fits ▸ isPatternOf_decodeCmd8 _
  · rw [format] at fits ⊢
    exact ofFormat fits ▸ isPatternOf_of_decodeBufPort h
  · rw [format] at fits ⊢
    exact ofFormat fits ▸ isPatternOf_of_decodeRegPort h
  · rw [format] at fits ⊢
    exact ofFormat fits ▸ isPatternOf_of_decodeHdr64 h
  · cases h

/-- Settles O2: whatever decodes is a pattern of a well-formed instruction. -/
theorem decodedIsWellFormed : Obligations.DecodedIsWellFormed :=
  fun _ _ h => (isPatternOf_of_decode h).wf

/-- Settles O3: whatever decodes is a pattern of its instruction, and only the two reads ignore lines. -/
theorem decodedPatternIsItsEncoding : Obligations.DecodedPatternIsItsEncoding := by
  intro w i h
  obtain ⟨-, hwidth, hbits⟩ := isPatternOf_of_decode h
  refine ⟨hwidth, ?_⟩
  cases i <;> exact hbits

/-! ### Strobes, and written-out words -/

/-- A pending transaction leaves the queue and takes effect. -/
theorem step_of_txn {s : State} {w : PortWord} {rest : List HostInput} (hs : s.inputs = .txn w :: rest) :
    step s = runWord exec w { s with inputs := rest } := by
  simp only [step, stepWith, State.nextInput, hs, runInput]

/-- Settles O5: the strobes alone decide that a port pattern is no operation, and the step answers by the reason. -/
theorem strobePatternsAreNoOperations : Obligations.StrobePatternsAreNoOperations := by
  refine ⟨fun a d r v => ⟨?_, ?_, ?_, ?_⟩, fun s w rest hs => ⟨fun hd => ?_, fun hd => ?_⟩⟩
  · exact (decode_of_bufPort _).trans (decodeBufPort_neither a d)
  · exact (decode_of_regPort _).trans (decodeRegPort_neither r v)
  · exact (decode_of_bufPort _).trans (decodeBufPort_both a d)
  · exact (decode_of_regPort _).trans (decodeRegPort_both r v)
  · rw [step_of_txn hs, runWord, hd]
  · rw [step_of_txn hs, runWord, hd]

/-- Settles O4: the decoder evaluated on the eight words; the clean header is admitted under either setting. -/
theorem writtenOutWordsDecode : Obligations.WrittenOutWordsDecode :=
  ⟨rfl, rfl, rfl, rfl, rfl, rfl, rfl, rfl⟩

end Sys2Proof
end

section
/-! The packet kind (`30_encoding.md` R71), and the commands a `WREG` issues (R73 to R75, R124). -/

namespace Sys2Proof.Machine

/-! ### The kind of a flag set -/

/-- The header is clean when its must-be-zero bits, the low five flags and the reserved byte, are zero (R68). -/
theorem headerClean_iff (flags rsvd : Byte) :
    headerClean flags rsvd = true ↔ flags &&& 0x1F = 0 ∧ rsvd = 0 := by
  have low : ∀ f : Byte, f.extractLsb' 0 5 = 0 ↔ f &&& 0x1F = 0 := by decide
  rw [headerClean, Bool.and_eq_true, decide_eq_true_iff, decide_eq_true_iff, low]

/-- Settles O47: the header is unclean or not, and the flag bits the kind is looked up by are the three flags'. -/
theorem kindOfFlagSet : Obligations.KindOfFlagSet := by
  intro flags rsvd
  have unclean : (!headerClean flags rsvd && Config.strictReserved) = true ↔
      Config.strictReserved = true ∧ ¬(flags &&& 0x1F = 0 ∧ rsvd = 0) := by
    rw [Bool.and_eq_true, Bool.not_eq_true', ← Bool.not_eq_true, headerClean_iff, and_comm]
  unfold kind
  rw [← flagsByte_of_flags]
  by_cases strict : Config.strictReserved = true ∧ ¬(flags &&& 0x1F = 0 ∧ rsvd = 0)
  · rw [if_pos (unclean.2 strict), if_pos strict]
    decide
  · rw [if_neg (unclean.not.2 strict), if_neg strict]
    cases synOf flags <;> cases ackOf flags <;> cases reqOf flags <;> decide

/-! ### Commands issued by `WREG` -/

/-- Every issued command completes, and leaves the block idle (R124; log entry 7). -/
theorem issue_completes (c : Byte) (s : State) : ∃ t, issue c s = .next t ∧ t.busy = false := by
  suffices completes : ∃ t, issue c s = .next t from completes.imp fun _ h => ⟨h, issue_busy h⟩
  rcases issue_code_cases c with rfl | reads | reserved
  · exact ⟨_, issue_encode s⟩
  · by_cases ok : s.lengthOk
    · rcases reads with rfl | rfl | rfl | rfl
      · exact ⟨_, issue_decode ok⟩
      · exact ⟨_, issue_checksum ok⟩
      · exact ⟨_, issue_setcsum ok⟩
      · exact ⟨_, issue_verify ok⟩
    · exact ⟨_, issue_of_not_lengthOk reads ok⟩
  · exact ⟨_, reserved s⟩

/-- A write to `CMD` does what the CMD8 row of the low byte does. -/
theorem exec_wreg_cmd (v : Word) (s : State) : exec (.wreg 5 v) s = exec (decodeCmd8 (v.setWidth 8)) s := by
  have wreg : Issues (.wreg 5 v) (v.setWidth 8) := .inr ⟨v, rfl, low_bits v 8⟩
  rw [exec_of_issues wreg, exec_decodeCmd8]

/-- Settles O13: the write to `CMD` is the CMD8 row of its low byte, and an issued command completes. -/
theorem wregToCmdIssuesCommand : Obligations.WregToCmdIssuesCommand := by
  intro v s idle
  have row : ∀ {c}, v.setWidth 8 = c → exec (.wreg 5 v) s = exec (decodeCmd8 c) s := fun h =>
    h ▸ exec_wreg_cmd v s
  refine ⟨row, row, row, row, row, fun reserved => ?_, ?_⟩
  · have code : (v.setWidth 8).toNat = 0 ∨ 6 ≤ (v.setWidth 8).toNat := reserved.imp_left (congrArg BitVec.toNat)
    rw [row rfl, decodeCmd8_of_reserved (decide_eq_true code)]
  · rw [row rfl, exec_decodeCmd8, State.whenIdle_of_idle idle]
    exact issue_completes _ s

end Sys2Proof.Machine
end

section
/-! What a packet-kind row leaves (`30_encoding.md` R60, R70 to R72; log entry 1). -/

namespace Sys2Proof.Machine

/-- The buffer in which the receive script issues `DECODE`: the bytes of the header word at offsets 0 to 7. -/
theorem State.read_headerPlaced (s : State) (h : BitVec 64) (a : Nat) :
    Memory.read (s.headerPlaced h.toNat).buf a = if a < 8 then (headerBytes h)[a]? else Memory.read s.buf a := by
  refine (Memory.read_writeBE ..).trans ?_
  rw [ofNat_shiftRight_toNat]
  by_cases header : a < 8
  · rw [if_pos (by omega), if_pos header]
    interval_cases a <;> rfl
  · rw [if_neg (by omega), if_neg header]

/-- A stretch of bytes within the first ones. -/
theorem State.take_drop_bytes (s : State) {k a n : Nat} (h : a + n ≤ k) :
    ((s.bytes 0 k).drop a).take n = s.bytes a n := by
  apply List.ext_getElem?
  intro i
  rw [List.getElem?_take, List.getElem?_drop, State.getElem?_bytes, State.getElem?_bytes, Nat.zero_add]
  split
  · rw [if_pos (by omega)]
  · rfl

theorem State.bytes_headerPlaced (s : State) (h : BitVec 64) : (s.headerPlaced h.toNat).bytes 0 8 = headerBytes h := by
  apply List.ext_getElem?
  intro i
  rw [State.getElem?_bytes, Nat.zero_add]
  split
  · rename_i header
    have placed := (s.read_headerPlaced h i).trans (if_pos header)
    have byte := List.getElem?_eq_getElem (l := headerBytes h) header
    rw [State.byteAt_of_read (placed.trans byte), byte]
  · rename_i beyond
    exact (List.getElem?_eq_none (l := headerBytes h) (Nat.not_lt.1 beyond)).symm

/-- `DECODE` loads the fields of the header word that the receive script has placed (`30_encoding.md` R60). -/
theorem State.loadHeader_headerPlaced (s : State) (h : BitVec 64) :
    (s.headerPlaced h.toNat).loadHeader =
      { s.headerPlaced h.toNat with
        seq := h.extractLsb' 32 32, csum := h.extractLsb' 16 16
        flags := h.extractLsb' 8 8, rsvd := h.extractLsb' 0 8 } := by
  have loads : ∀ a n, a + n ≤ 8 →
      (s.headerPlaced h.toNat).memRead a n = beNat (((headerBytes h).drop a).take n) := fun a n hn => by
    rw [← s.bytes_headerPlaced, State.take_drop_bytes _ hn, State.memRead]
  have seq : BitVec.ofNat 32 ((s.headerPlaced h.toNat).memRead 0 4) = h.extractLsb' 32 32 := by
    rw [loads 0 4 (by omega)]
    refine (ofNat_beNat4 _ _ _ _).trans ?_
    simp only [BitVec.extractLsb'_append_extractLsb'_eq_extractLsb']
  have csum : BitVec.ofNat 16 ((s.headerPlaced h.toNat).memRead 4 2) = h.extractLsb' 16 16 := by
    rw [loads 4 2 (by omega)]
    refine (ofNat_beNat2 _ _).trans ?_
    simp only [BitVec.extractLsb'_append_extractLsb'_eq_extractLsb']
  have flags : BitVec.ofNat 8 ((s.headerPlaced h.toNat).memRead 6 1) = h.extractLsb' 8 8 := by
    rw [loads 6 1 (by omega)]
    exact ofNat_beNat1 _
  have rsvd : BitVec.ofNat 8 ((s.headerPlaced h.toNat).memRead 7 1) = h.extractLsb' 0 8 := by
    rw [loads 7 1 (by omega)]
    exact ofNat_beNat1 _
  rw [State.loadHeader, seq, csum, flags, rsvd]

/-- The flags byte and the reserved byte of a header word. -/
theorem headerWord_flags_rsvd (seq : Word) (csum : Half) (fs : BitVec 3) (mbz : BitVec 13) :
    (headerWord seq csum fs mbz).extractLsb' 8 8 = fs ++ mbz.extractLsb' 8 5
    ∧ (headerWord seq csum fs mbz).extractLsb' 0 8 = mbz.extractLsb' 0 8 := by
  refine ⟨?_, BitVec.extractLsb'_append_eq_of_add_le (by omega)⟩
  obtain ⟨-, -, high, -⟩ := headerWord_fields seq csum fs mbz
  have low : (headerWord seq csum fs mbz).extractLsb' 8 5 = mbz.extractLsb' 8 5 :=
    BitVec.extractLsb'_append_eq_of_add_le (by omega)
  calc (headerWord seq csum fs mbz).extractLsb' 8 8
      = (headerWord seq csum fs mbz).extractLsb' 13 3 ++ (headerWord seq csum fs mbz).extractLsb' 8 5 :=
        (BitVec.extractLsb'_append_extractLsb'_eq_extractLsb' (show 13 = 8 + 5 from rfl)).symm
    _ = fs ++ mbz.extractLsb' 8 5 := by rw [high, low]

/-- A header word received by an idle block (`30_encoding.md` R60; log entry 1). -/
theorem receiveHeader_headerWord {s : State} (idle : s.busy = false) (seq : Word) (csum : Half) (fs : BitVec 3)
    (mbz : BitVec 13) :
    receiveHeader (headerWord seq csum fs mbz) s = .next
      { s with
        seq := seq, csum := csum, flags := fs ++ mbz.extractLsb' 8 5, rsvd := mbz.extractLsb' 0 8
        len := 8, code := .ok, buf := (s.headerPlaced (headerWord seq csum fs mbz).toNat).buf
        draws := s.draws + 1 } := by
  obtain ⟨hseq, hcsum, -, -⟩ := headerWord_fields seq csum fs mbz
  obtain ⟨hflags, hrsvd⟩ := headerWord_flags_rsvd seq csum fs mbz
  rw [receiveHeader_eq, State.whenIdle_of_idle idle, issue_decode (State.headerPlaced_lengthOk s _),
    State.loadHeader_headerPlaced, hseq, hcsum, hflags, hrsvd, ← idle]
  rfl

/-- Settles O50: each row receives the header word of its flag set, whose kind is the row's code when it is clean. -/
theorem headerRowResult : Obligations.HeaderRowResult := by
  intro seq csum mbz s idle p hp
  obtain ⟨row, code⟩ : exec p.1 s = receiveHeader (headerWord seq csum p.2.1 mbz) s
      ∧ (kind (p.2.1 ++ 0#5) 0).setWidth 32 = p.2.2 := by
    simp only [List.mem_cons, List.not_mem_nil, or_false] at hp
    rcases hp with rfl | rfl | rfl | rfl | rfl | rfl | rfl | rfl <;>
      exact ⟨rfl, by dsimp only; decide⟩
  refine ⟨_, _, _, row.trans (receiveHeader_headerWord idle seq csum p.2.1 mbz), rfl,
    s.read_headerPlaced (headerWord seq csum p.2.1 mbz), ?_⟩
  rintro rfl
  exact code

end Sys2Proof.Machine
end

section
/-! The codec (`40_codec.md` R90 to R95): the header functions undo each other, `ENCODE` and `DECODE` are these
functions on the block, and a reading command with an illegal length reads nothing. -/

namespace Sys2Proof.Machine

/-! ### The header functions -/

/-- `DecodeHeader` undoes `EncodeHeader`, whatever payload stands behind (`40_codec.md` R94). -/
theorem decodeHeader_encodeHeader_append (seq : Word) (csum : Half) (syn ack req : Bool) (payload : List Byte) :
    decodeHeader (encodeHeader seq csum syn ack req ++ payload) =
      some { seq := seq, csum := csum, flags := flagsByte syn ack req, rsvd := 0#8 } := by
  simp only [encodeHeader, List.cons_append, decodeHeader, word_of_bytes, half_of_bytes]

/-- A packet that decodes begins with the bytes of its fields. -/
theorem take_of_decodeHeader {b : List Byte} {h : HeaderFields} (decodes : decodeHeader b = some h) :
    b.take 8 =
      [h.seq.extractLsb' 24 8, h.seq.extractLsb' 16 8, h.seq.extractLsb' 8 8, h.seq.extractLsb' 0 8,
       h.csum.extractLsb' 8 8, h.csum.extractLsb' 0 8, h.flags, h.rsvd] := by
  unfold decodeHeader at decodes
  split at decodes
  · rename_i b0 b1 b2 b3 b4 b5 b6 b7 payload
    obtain rfl := Option.some.inj decodes
    obtain ⟨e0, e1, e2, e3⟩ := bytes_of_word b0 b1 b2 b3
    obtain ⟨e4, e5⟩ := bytes_of_half b4 b5
    simp only [e0, e1, e2, e3, e4, e5, List.take_succ_cons, List.take_zero]
  · cases decodes

/-- Settles O22: the encoder keeps the first six bytes, and clears the bits that `HeaderClean` asks to be zero. -/
theorem reencodeKeepsCleanHeader : Obligations.ReencodeKeepsCleanHeader := by
  intro b h decodes
  have header := take_of_decodeHeader decodes
  have six : b.take 6 = (b.take 8).take 6 := by rw [List.take_take]; rfl
  have again : encodeHeader h.seq h.csum (synOf h.flags) (ackOf h.flags) (reqOf h.flags) =
      b.take 6 ++ [h.flags &&& 0xE0, 0x00] := by
    rw [six, header, encodeHeader, flagsByte_of_flags]
    rfl
  have eight : b.take 8 = b.take 6 ++ [h.flags, h.rsvd] := by
    rw [six, header]
    rfl
  have high : ∀ f : Byte, f &&& 0xE0 = f ↔ f &&& 0x1F = 0 := by decide
  refine ⟨again, ?_⟩
  rw [again, eight, List.append_cancel_left_eq, headerClean_iff, ← high, List.cons.injEq, List.cons.injEq]
  exact and_congr_right' ⟨fun e => e.1.symm, fun e => ⟨e.symm, rfl⟩⟩

/-! ### The packet in the buffer -/

/-- A packet that begins with bytes stored in the buffer. -/
theorem State.packet_eq_append (s : State) {bs : List Byte} (fits : bs.length ≤ s.len.toNat)
    (stored : ∀ a, a < bs.length → Memory.read s.buf a = bs[a]?) : s.packet = bs ++ s.packet.drop bs.length := by
  have front : s.packet.take bs.length = bs := by
    apply List.ext_getElem?
    intro i
    rw [List.getElem?_take]
    split
    · rename_i hi
      rw [State.getElem?_packet, if_pos (by omega), List.getElem?_eq_getElem hi]
      exact congrArg some (State.byteAt_of_read ((stored i hi).trans (List.getElem?_eq_getElem hi)))
    · rename_i beyond
      exact (List.getElem?_eq_none (Nat.not_lt.1 beyond)).symm
  conv_lhs => rw [← List.take_append_drop bs.length s.packet, front]

/-- What `DecodeHeader` makes of the packet is what `DECODE` loads (`40_codec.md` R91, R93). -/
theorem State.decodeHeader_packet {s : State} (ok : s.lengthOk) :
    decodeHeader s.packet = some
      { seq := s.loadHeader.seq, csum := s.loadHeader.csum
        flags := s.loadHeader.flags, rsvd := s.loadHeader.rsvd } := by
  obtain ⟨n, hn⟩ := Nat.exists_eq_add_of_le' ok.1
  have header : s.packet = s.byteAt 0 :: s.byteAt 1 :: s.byteAt 2 :: s.byteAt 3 :: s.byteAt 4 :: s.byteAt 5 ::
      s.byteAt 6 :: s.byteAt 7 :: s.bytes 8 n := by
    rw [State.packet, hn]
    rfl
  have seq : s.loadHeader.seq = s.byteAt 0 ++ s.byteAt 1 ++ s.byteAt 2 ++ s.byteAt 3 := ofNat_beNat4 _ _ _ _
  have csum : s.loadHeader.csum = s.byteAt 4 ++ s.byteAt 5 := ofNat_beNat2 _ _
  have flags : s.loadHeader.flags = s.byteAt 6 := ofNat_beNat1 _
  have rsvd : s.loadHeader.rsvd = s.byteAt 7 := ofNat_beNat1 _
  rw [header, decodeHeader, seq, csum, flags, rsvd]

/-- A packet that begins with an encoded header decodes to its fields, the must-be-zero bits cleared. -/
theorem State.decodeHeader_packet_of_encoded (s : State) (ok : s.lengthOk) {seq : Word} {csum : Half} {flags : Byte}
    (stored : ∀ a, a < 8 →
      Memory.read s.buf a = (encodeHeader seq csum (synOf flags) (ackOf flags) (reqOf flags))[a]?) :
    decodeHeader s.packet = some { seq := seq, csum := csum, flags := flags &&& 0xE0#8, rsvd := 0#8 } := by
  have fits : (encodeHeader seq csum (synOf flags) (ackOf flags) (reqOf flags)).length ≤ s.len.toNat := ok.1
  rw [s.packet_eq_append fits stored, decodeHeader_encodeHeader_append, flagsByte_of_flags]

/-! ### The commands -/

/-- An instruction that issues a code runs the command, on an idle block. -/
theorem exec_of_issues_of_idle {i : Instr} {c : Byte} {s : State} (hi : Issues i c) (idle : s.busy = false) :
    exec i s = issue c s :=
  (exec_of_issues hi s).trans (State.whenIdle_of_idle idle _)

/-- The state after `ENCODE` on an idle block (`40_codec.md` R92). -/
def State.encoded (s : State) : State := { s with buf := s.headerStored, code := .ok }

/-- `ENCODE` on an idle block. -/
theorem exec_encode {s : State} (idle : s.busy = false) : exec .encode s = .next s.encoded := by
  rw [exec_of_issues_of_idle (i := .encode) (c := 1) (.inl rfl) idle, issue_encode, State.encoded, ← idle]

/-- The state after `DECODE` of a packet with these fields on an idle block (`40_codec.md` R93). -/
def State.decoded (s : State) (h : HeaderFields) : State :=
  { s with
    seq := h.seq, csum := h.csum, flags := h.flags, rsvd := h.rsvd
    code := .ok, draws := s.draws + 1 }

/-- `DECODE` on an idle block whose packet decodes. -/
theorem exec_decode {s : State} (idle : s.busy = false) (ok : s.lengthOk) {h : HeaderFields}
    (decodes : decodeHeader s.packet = some h) : exec .decode s = .next (s.decoded h) := by
  obtain rfl := Option.some.inj ((State.decodeHeader_packet ok).symm.trans decodes)
  rw [exec_of_issues_of_idle (i := .decode) (c := 2) (.inl rfl) idle, issue_decode ok, State.decoded, ← idle]
  rfl

/-- Settles O18: the buffer after `ENCODE` holds `EncodeHeader` of the registers. -/
theorem encodeStoresHeader : Obligations.EncodeStoresHeader := fun s idle =>
  ⟨s.headerStored, exec_encode idle, s.read_headerStored⟩

/-- Settles O19: a packet of legal length decodes, to the fields that `DECODE` loads. -/
theorem decodeLoadsHeader : Obligations.DecodeLoadsHeader := fun _ idle ok =>
  ⟨_, State.decodeHeader_packet ok, exec_decode idle ok (State.decodeHeader_packet ok)⟩

/-- Settles O20: the four instructions issue the codes 2 to 5, whose length checks come before everything else. -/
theorem lengthChecksChangeOnlyCode : Obligations.LengthChecksChangeOnlyCode := by
  intro i s reading idle
  obtain ⟨c, issues, hc⟩ : ∃ c : Byte, Issues i c ∧ (c = 2 ∨ c = 3 ∨ c = 4 ∨ c = 5) := by
    simp only [List.mem_cons, List.not_mem_nil, or_false] at reading
    rcases reading with rfl | rfl | rfl | rfl
    · exact ⟨2, .inl rfl, .inl rfl⟩
    · exact ⟨3, .inl rfl, .inr (.inl rfl)⟩
    · exact ⟨4, .inl rfl, .inr (.inr (.inl rfl))⟩
    · exact ⟨5, .inl rfl, .inr (.inr (.inr rfl))⟩
  have answer : ¬ s.lengthOk →
      exec i s = .next { s with code := if 1024 < s.len.toNat then .lenError else .malformedHeader } := by
    intro illegal
    rw [exec_of_issues_of_idle issues idle, issue_of_not_lengthOk hc illegal, ← idle]
  refine ⟨fun long => ?_, fun short => ?_⟩
  · rw [answer fun ok => Nat.not_le.2 long ok.2, if_pos long]
  · rw [answer fun ok => Nat.not_le.2 short ok.1, if_neg (by omega)]

/-- Settles O21: `DecodeHeader` undoes `EncodeHeader`, and `DECODE` finds in the packet what `ENCODE` stored. -/
theorem headerRoundTrip : Obligations.HeaderRoundTrip := by
  refine ⟨decodeHeader_encodeHeader_append, fun s idle ok => ?_⟩
  have decodes : decodeHeader s.encoded.packet =
      some { seq := s.seq, csum := s.csum, flags := s.flags &&& 0xE0#8, rsvd := 0#8 } :=
    s.encoded.decodeHeader_packet_of_encoded ok fun a header => (s.read_headerStored a).trans (if_pos header)
  have second := exec_decode (s := s.encoded) idle ok decodes
  exact ⟨s.headerStored, s.draws + 1, runOps_pair (exec_encode idle) second⟩

end Sys2Proof.Machine
end

section
/-! A packet from one block to another (`42_host_access.md` R128, R129): what `PACK` leaves in the sender, and what the
receive flow makes of a datagram. -/

namespace Sys2Proof.Machine

/-! ### The sender -/

/-- The state after `PACK` on an idle block with a legal length (`42_host_access.md` R128). -/
def State.packed (s : State) : State :=
  { s.encoded with
    buf := s.encoded.storeChecksum.buf
    csum := checksum s.encoded.packet, calcReg := checksum s.encoded.packet
    draws := s.draws + 1 }

theorem runOps_packScript {s : State} (idle : s.busy = false) (ok : s.lengthOk) :
    runOps packScript s = .next s.packed := by
  refine runOps_pair (exec_encode idle) ?_
  rw [exec_of_issues_of_idle (i := .setcsum) (c := 4) (s := s.encoded) (.inl rfl) idle,
    issue_setcsum (s := s.encoded) ok, ← idle]
  rfl

/-- Outside the checksum field `PACK` leaves what `ENCODE` left. -/
theorem State.read_packed_of_not_field (s : State) {a : Nat} (h : ¬(4 ≤ a ∧ a < 6)) :
    Memory.read s.packed.buf a = Memory.read s.encoded.buf a :=
  (s.encoded.read_storeChecksum a).trans (if_neg h)

/-- The buffer after `PACK`: the header that `EncodeHeader` makes of the fields, with the sum now in `CSUM`. -/
theorem State.read_packed (s : State) (a : Nat) :
    Memory.read s.packed.buf a =
      if a < 8 then
        (encodeHeader s.packed.seq s.packed.csum (synOf s.flags) (ackOf s.flags) (reqOf s.flags))[a]?
      else Memory.read s.buf a := by
  by_cases field : 4 ≤ a ∧ a < 6
  · refine (s.encoded.read_storeChecksum a).trans ?_
    rw [if_pos field, if_pos (by omega), ofNat_shiftRight_toNat]
    obtain rfl | rfl : a = 4 ∨ a = 5 := by omega
    · rfl
    · rfl
  · rw [s.read_packed_of_not_field field]
    refine (s.read_headerStored a).trans ?_
    by_cases header : a < 8
    · rw [if_pos header, if_pos header]
      obtain seq | rfl | rfl : a < 4 ∨ a = 6 ∨ a = 7 := by omega
      · interval_cases a <;> rfl
      · rfl
      · rfl
    · rw [if_neg header, if_neg header]

/-- The packed packet decodes to the sender's fields, the must-be-zero bits cleared, and to the sum. -/
theorem State.decodeHeader_packet_packed {s : State} (ok : s.lengthOk) :
    decodeHeader s.packed.packet =
      some { seq := s.seq, csum := s.packed.csum, flags := s.flags &&& 0xE0#8, rsvd := 0#8 } :=
  s.packed.decodeHeader_packet_of_encoded ok fun a header => (s.read_packed a).trans (if_pos header)

section WrittenPayload
variable {s : State} (payload : s.writtenFrom 8)
include payload

theorem State.writtenFrom_packed : s.packed.writtenFrom 0 := by
  intro a _ ha
  rw [State.written, s.read_packed]
  split
  · rename_i header
    rw [List.getElem?_eq_getElem (l := encodeHeader _ _ _ _ _) header]
    rfl
  · exact payload a (by omega) ha

/-- The sum that `PACK` stores is that of the packet it leaves (`41_checksum.md` R108, R110). -/
theorem State.checksum_packet_packed : checksum s.packed.packet = s.packed.csum :=
  State.checksum_packet_congr (s := s.encoded) rfl fun a ha h4 h5 =>
    (State.byteAt_of_written (State.writtenFrom_packed payload a a.zero_le ha)
      (s.read_packed_of_not_field (by omega)).symm).symm

theorem State.payload_packed : s.packed.packet.drop 8 = s.packet.drop 8 := by
  apply List.ext_getElem?
  intro i
  rw [List.getElem?_drop, List.getElem?_drop, State.getElem?_packet, State.getElem?_packet]
  split
  · rename_i hi
    have same := (s.read_packed (8 + i)).trans (if_neg (by omega))
    rw [State.byteAt_of_written (payload (8 + i) (by omega) hi) same]
    exact (if_pos hi).symm
  · rename_i beyond
    exact (if_neg beyond).symm

end WrittenPayload

/-! ### The receiver -/

/-- What bytes stored one by one leave at every offset. -/
theorem Memory.read_writeBytes (m : Memory) (a : Nat) (ds : List Byte) (b : Nat) :
    Memory.read (Memory.writeBytes m a ds) b =
      if a ≤ b ∧ b < a + ds.length then ds[b - a]? else Memory.read m b := by
  induction ds generalizing m a with
  | nil => rw [Memory.writeBytes, if_neg (by simp)]
  | cons d ds ih =>
    rw [Memory.writeBytes, ih, Memory.read_write, List.length_cons]
    by_cases first : b = a
    · subst first
      rw [if_neg (by omega), if_pos rfl, if_pos (by omega), Nat.sub_self, List.getElem?_cons_zero]
    · rw [if_neg first]
      by_cases later : a + 1 ≤ b ∧ b < a + 1 + ds.length
      · rw [if_pos later, if_pos (by omega), show b - a = (b - (a + 1)) + 1 by omega, List.getElem?_cons_succ]
      · rw [if_neg later, if_neg (by omega)]

/-- A block with a datagram in its buffer and its length in `LEN` (`42_host_access.md` R129). -/
def State.holding (r : State) (p : List Byte) : State :=
  { r with buf := Memory.writeBytes r.buf 0 p, len := BitVec.ofNat 11 p.length }

/-- A script that begins with the load of a datagram goes on with the block holding it. -/
theorem runOps_load_append {r : State} (idle : r.busy = false) {p : List Byte} (fits : p.length ≤ 1024)
    (is : List Instr) :
    runOps (wbufs 0 p ++ .wreg 4#4 (BitVec.ofNat 32 p.length) :: is) r = runOps is (r.holding p) := by
  have low : (BitVec.ofNat 32 p.length).extractLsb' 0 11 = BitVec.ofNat 11 p.length :=
    (low_bits _ 11).trans (BitVec.setWidth_ofNat_of_le (by decide) _)
  rw [runOps_wbufs_append idle (by omega), State.holding, ← low]
  exact runOps_cons_of_next (exec_wreg (s := { r with buf := Memory.writeBytes r.buf 0 p }) idle (by decide) _) is

section Holding
variable (r : State) {p : List Byte}

theorem State.read_holding {a : Nat} (ha : a < p.length) : Memory.read (r.holding p).buf a = p[a]? :=
  (Memory.read_writeBytes r.buf 0 p a).trans (if_pos ⟨a.zero_le, by omega⟩)

variable (fits : p.length ≤ 1024)
include fits

theorem State.len_holding : (r.holding p).len.toNat = p.length :=
  Nat.mod_eq_of_lt (by omega)

theorem State.writtenFrom_holding : (r.holding p).writtenFrom 0 := by
  intro a _ ha
  rw [r.len_holding fits] at ha
  rw [State.written, r.read_holding ha, List.getElem?_eq_getElem ha]
  rfl

theorem State.packet_holding : (r.holding p).packet = p := by
  have length := r.len_holding fits
  have whole := (r.holding p).packet_eq_append length.ge fun a => r.read_holding
  rwa [List.drop_eq_nil_of_le (by rw [State.length_packet, length]), List.append_nil] at whole

end Holding

/-- A written packet stays while its bytes and its length do. -/
theorem State.packet_of_written {s t : State} (written : s.writtenFrom 0) (hlen : t.len = s.len)
    (hbuf : t.buf = s.buf) : t.packet = s.packet :=
  State.packet_congr hlen fun a ha => State.byteAt_of_written (written a a.zero_le ha) (by rw [hbuf])

/-- The field that `VERIFY` compares is the one that `DECODE` loads into `CSUM`. -/
theorem State.memRead_checksumField (s : State) : s.memRead 4 2 = s.loadHeader.csum.toNat := by
  have pair : s.memRead 4 2 = (s.byteAt 4 ++ s.byteAt 5).toNat := beNat2 _ _
  rw [State.loadHeader_csum, pair, BitVec.ofNat_toNat, BitVec.setWidth_eq]

/-- `VERIFY` on an idle block whose packet decodes: the sum against the packet's own checksum field. -/
theorem exec_verify {s : State} (idle : s.busy = false) (ok : s.lengthOk) {h : HeaderFields}
    (decodes : decodeHeader s.packet = some h) :
    exec .verify s = .next
      { s with
        calcReg := checksum s.packet
        code := if checksum s.packet = h.csum then .ok else .checksumMismatch
        draws := s.draws + 1 } := by
  obtain rfl := Option.some.inj ((State.decodeHeader_packet ok).symm.trans decodes)
  rw [exec_of_issues_of_idle (i := .verify) (c := 5) (.inl rfl) idle, issue_verify ok, s.memRead_checksumField, ← idle]
  simp only [BitVec.toNat_inj]

/-- `UNPACK` of a written packet on an idle block (`42_host_access.md` R128). -/
theorem runOps_unpackScript {s : State} (idle : s.busy = false) (ok : s.lengthOk) (written : s.writtenFrom 0)
    {h : HeaderFields} (decodes : decodeHeader s.packet = some h) :
    runOps unpackScript s = .next
      { s.decoded h with
        calcReg := checksum s.packet
        code := if checksum s.packet = h.csum then .ok else .checksumMismatch
        draws := s.draws + 2 } := by
  have kept : (s.decoded h).packet = s.packet := State.packet_of_written written rfl rfl
  have verified := exec_verify (s := s.decoded h) idle ok (by rw [kept, decodes])
  rw [kept] at verified
  exact runOps_pair (exec_decode idle ok decodes) verified

/-- The receive flow on an idle block, for a datagram of legal length (`42_host_access.md` R129). -/
theorem runOps_receiveScript {r : State} (idle : r.busy = false) {p : List Byte} (header : 8 ≤ p.length)
    (fits : p.length ≤ 1024) {h : HeaderFields} (decodes : decodeHeader p = some h) :
    runOps (receiveScript p) r = .next
      { (r.holding p).decoded h with
        calcReg := checksum p
        code := if checksum p = h.csum then .ok else .checksumMismatch
        draws := r.draws + 2 } := by
  have length := r.len_holding fits
  have packet := r.packet_holding fits
  have unpacked := runOps_unpackScript (s := r.holding p) idle ⟨header.trans length.ge, length.le.trans fits⟩
    (r.writtenFrom_holding fits) (by rw [packet, decodes])
  rw [packet] at unpacked
  exact (runOps_load_append idle fits unpackScript).trans unpacked

/-- Settles O46: the packed packet decodes to the sender's fields and sums up to its own field, so the receive flow
ends `OK` with these fields. -/
theorem sentPacketIsReceived : Obligations.SentPacketIsReceived := by
  intro s r idle ok payload receiver
  have length : s.packed.packet.length = s.len.toNat := s.packed.length_packet
  have header : 8 ≤ s.packed.packet.length := length ▸ ok.1
  have fits : s.packed.packet.length ≤ 1024 := length ▸ ok.2
  have received := runOps_receiveScript receiver header fits (State.decodeHeader_packet_packed ok)
  refine ⟨s.packed, _, runOps_packScript idle ok, received, ?_, ?_, rfl, rfl, rfl, rfl,
    State.payload_packed payload⟩
  · exact if_pos (State.checksum_packet_packed payload)
  · refine (State.packet_of_written (r.writtenFrom_holding fits) ?_ ?_).trans (r.packet_holding fits) <;> rfl

end Sys2Proof.Machine
end

section
/-! The sum of a byte sequence and its one fold (`41_checksum.md` R100 to R104): the weight with which each byte counts,
and the sizes. -/

namespace Sys2Proof.Machine

/-! ### The weight of a byte -/

/-- How much a byte at an offset counts for in `RawSum`: high bytes stand at even offsets (`41_checksum.md` R100). -/
def byteWeight (i : Nat) : Nat := if i % 2 = 0 then 256 else 1

@[simp] theorem byteWeight_add_two (i : Nat) : byteWeight (i + 2) = byteWeight i := by
  rw [byteWeight, byteWeight, Nat.add_mod_right]

@[simp] theorem byteWeight_zero : byteWeight 0 = 256 := rfl

@[simp] theorem byteWeight_one : byteWeight 1 = 1 := rfl

theorem byteWeight_eq (i : Nat) : byteWeight i = 256 ∨ byteWeight i = 1 := by
  unfold byteWeight
  split
  · exact .inl rfl
  · exact .inr rfl

@[simp] theorem rawSum_nil : rawSum [] = 0 := rfl

@[simp] theorem rawSum_singleton (b : Byte) : rawSum [b] = 256 * b.toNat := by
  rw [rawSum, Nat.shiftLeft_eq]
  omega

@[simp] theorem rawSum_cons_cons (hi lo : Byte) (rest : List Byte) :
    rawSum (hi :: lo :: rest) = 256 * hi.toNat + lo.toNat + rawSum rest := by
  rw [rawSum, Nat.shiftLeft_eq]
  omega

theorem rawSum_eq_sum (b : List Byte) :
    rawSum b = ∑ i ∈ Finset.range b.length, byteWeight i * (b.getD i 0).toNat := by
  induction b using rawSum.induct with
  | case1 => rfl
  | case2 b => simp
  | case3 hi lo rest ih =>
    simp only [List.length_cons, Finset.sum_range_succ', Nat.add_assoc, Nat.reduceAdd, byteWeight_add_two,
      List.getD_cons_succ, List.getD_cons_zero, byteWeight_zero, byteWeight_one, rawSum_cons_cons, ih, Nat.zero_add]
    omega

/-- Settles O24: each byte counts with the weight of its offset. -/
theorem rawSumClosedForm : Obligations.RawSumClosedForm := by
  intro b
  rw [rawSum_eq_sum, Finset.sum_filter, Finset.sum_filter, Finset.mul_sum, ← Finset.sum_add_distrib]
  refine Finset.sum_congr rfl fun i _ => ?_
  rcases Nat.mod_two_eq_zero_or_one i with even | odd
  · simp [byteWeight, even]
  · simp [byteWeight, odd]

/-- A byte replaced moves the sum by its weight. -/
theorem rawSum_set {b : List Byte} {i : Nat} (hi : i < b.length) (x : Byte) :
    rawSum (b.set i x) + byteWeight i * (b.getD i 0).toNat = rawSum b + byteWeight i * x.toNat := by
  induction b using rawSum.induct generalizing i with
  | case1 => cases hi
  | case2 b =>
    obtain rfl : i = 0 := Nat.lt_one_iff.1 hi
    simp [Nat.add_comm]
  | case3 hi lo rest ih =>
    match i with
    | 0 | 1 =>
      simp
      omega
    | i + 2 =>
      have later := ih (Nat.lt_of_add_lt_add_right (n := 2) hi)
      simp only [List.set_cons_succ, rawSum_cons_cons, byteWeight_add_two, List.getD_cons_succ]
      omega

/-- The sum of a sequence that starts with whole words. -/
theorem rawSum_append {p : List Byte} (even : p.length % 2 = 0) (q : List Byte) :
    rawSum (p ++ q) = rawSum p + rawSum q := by
  induction p using rawSum.induct with
  | case1 => simp
  | case2 b => cases even
  | case3 hi lo rest ih =>
    have rest_even : rest.length % 2 = 0 := (Nat.add_mod_right rest.length 2).symm.trans even
    simp only [List.cons_append, rawSum_cons_cons, ih rest_even]
    omega

/-- Zero bytes at the end do not count (`41_checksum.md` R112 b). -/
theorem rawSum_append_zeros (b : List Byte) (n : Nat) : rawSum (b ++ List.replicate n 0x00) = rawSum b := by
  have padded : ∀ i, (b ++ List.replicate n 0x00).getD i 0 = b.getD i 0 := fun i => by
    simp only [List.getD_eq_getElem?_getD, List.getElem?_append, List.getElem?_replicate]
    split_ifs with inside padding
    · rfl
    · rw [List.getElem?_eq_none (by omega)]
      rfl
    · rw [List.getElem?_eq_none (by omega)]
  have beyond : ∀ i, (b.getD (b.length + i) 0).toNat = 0 := fun i => by simp
  simp only [rawSum_eq_sum, List.length_append, List.length_replicate, Finset.sum_range_add, padded, beyond,
    Nat.mul_zero, Finset.sum_const_zero, Nat.add_zero]

/-- A sequence sums to at most its number of words, a last unpaired byte counted, times the largest word. -/
theorem rawSum_le (b : List Byte) : rawSum b ≤ 0xFFFF * ((b.length + 1) / 2) := by
  induction b using rawSum.induct with
  | case1 => simp
  | case2 b =>
    have := b.isLt
    simp only [rawSum_singleton, List.length_singleton]
    omega
  | case3 hi lo rest ih =>
    have := hi.isLt
    have := lo.isLt
    simp only [rawSum_cons_cons, List.length_cons]
    omega

/-! ### The sum with the checksum field left out -/

@[simp] theorem length_zeroed (b : List Byte) : (zeroed b).length = b.length := by simp [zeroed]

theorem getElem?_zeroed {b : List Byte} {i : Nat} (h4 : i ≠ 4) (h5 : i ≠ 5) : (zeroed b)[i]? = b[i]? := by
  simp [zeroed, h4.symm, h5.symm]

/-- Two sequences of one length that differ in the checksum field alone (`41_checksum.md` R110 a). -/
theorem zeroed_congr {b b' : List Byte} (length : b'.length = b.length)
    (same : ∀ i, i ≠ 4 → i ≠ 5 → b'[i]? = b[i]?) : zeroed b' = zeroed b := by
  apply List.ext_getElem?
  intro i
  by_cases h5 : 5 = i
  · simp [zeroed, List.getElem?_set, ← h5, length]
  by_cases h4 : 4 = i
  · simp [zeroed, List.getElem?_set, ← h4, length]
  rw [getElem?_zeroed (Ne.symm h4) (Ne.symm h5), getElem?_zeroed (Ne.symm h4) (Ne.symm h5),
    same i (Ne.symm h4) (Ne.symm h5)]

/-- The checksum field filled a second time. -/
theorem set_field_again (b : List Byte) (v w x y : Byte) :
    (((b.set 4 v).set 5 w).set 4 x).set 5 y = (b.set 4 x).set 5 y := by
  rw [List.set_comm w x (by decide), List.set_set, List.set_set]

/-- What filling the zeroed field adds to the sum. -/
theorem rawSum_fill {b : List Byte} (long : 8 ≤ b.length) (x y : Byte) :
    rawSum ((b.set 4 x).set 5 y) = rawSum (zeroed b) + 256 * x.toNat + y.toNat := by
  have refill : ((zeroed b).set 4 x).set 5 y = (b.set 4 x).set 5 y := set_field_again b 0 0 x y
  have high := rawSum_set (b := zeroed b) (i := 4) (by rw [length_zeroed]; omega) x
  have low := rawSum_set (b := (zeroed b).set 4 x) (i := 5) (by rw [List.length_set, length_zeroed]; omega) y
  have zeros : ((zeroed b).getD 4 0).toNat = 0 ∧ (((zeroed b).set 4 x).getD 5 0).toNat = 0 := by
    simp [zeroed, show 4 < b.length by omega, show 5 < b.length by omega]
  have weights : byteWeight 4 = 256 ∧ byteWeight 5 = 1 := ⟨rfl, rfl⟩
  rw [zeros.1, weights.1] at high
  rw [zeros.2, weights.2, refill] at low
  omega

/-! ### The fold -/

theorem fold1_eq (s : Nat) : fold1 s = s / 65536 + s % 65536 := by
  rw [fold1, Nat.shiftRight_eq_div_pow, show (0xFFFF : Nat) = 2 ^ 16 - 1 from rfl, Nat.and_two_pow_sub_one_eq_mod]

/-- A packet of at most 1024 bytes sums to at most 511 words: the field is left out (`41_checksum.md` R103). -/
theorem rawSum_zeroed_le {b : List Byte} (long : 8 ≤ b.length) (short : b.length ≤ 1024) :
    rawSum (zeroed b) ≤ 0x1FEFE01 := by
  have filled := rawSum_fill long 0xFF 0xFF
  have bound := rawSum_le ((b.set 4 0xFF).set 5 0xFF)
  have largest : (0xFF : Byte).toNat = 255 := rfl
  rw [filled, largest, List.length_set, List.length_set] at bound
  omega

theorem fold1_le {s : Nat} (h : s ≤ 0x1FEFE01) : fold1 s ≤ 0x101FC := by
  rw [fold1_eq]
  omega

/-- Settles O25: with the largest overflow the sum bounds the low 16 bits, so the folded sum is largest with one less. -/
theorem checksumSizes : Obligations.ChecksumSizes := by
  refine ⟨fun b long short => ?_, by decide, by decide, by decide, by decide⟩
  have sum := rawSum_zeroed_le long short
  refine ⟨sum, ?_, fold1_le sum⟩
  rw [Nat.shiftRight_eq_div_pow]
  omega

theorem toNat_checksum (b : List Byte) :
    (checksum b).toNat = 0xFFFF - fold1 (rawSum (zeroed b)) % 65536 := by
  rw [checksum, BitVec.toNat_not, BitVec.toNat_ofNat]

theorem checksum_eq_iff (b b' : List Byte) :
    checksum b = checksum b' ↔ fold1 (rawSum (zeroed b)) % 65536 = fold1 (rawSum (zeroed b')) % 65536 := by
  rw [checksum, checksum, BitVec.not_inj, ← BitVec.toNat_inj, BitVec.toNat_ofNat, BitVec.toNat_ofNat]

/-- Settles O26: a folded sum above 16 bits has one bit more, and the complement is taken without it. -/
theorem singleFoldDropsCarry : Obligations.SingleFoldDropsCarry := by
  refine ⟨fun b _ => toNat_checksum b, fun b long short carry => ?_, fun x y => ?_⟩
  · have bound := fold1_le (rawSum_zeroed_le long short)
    rw [toNat_checksum]
    omega
  · have left_out : zeroed [0xFF, 0xFF, 0xFF, 0xFF, x, y, 0x00, 0x00, 0x00, 0x01] =
        [0xFF, 0xFF, 0xFF, 0xFF, 0x00, 0x00, 0x00, 0x00, 0x00, 0x01] := rfl
    rw [checksum, left_out]
    decide

end Sys2Proof.Machine
end

section
/-! What the checksum says about a packet (`41_checksum.md` R105, R106, R110 to R112): the laws of `SetChecksum` and
`Verify`, the flips it detects and the changes it does not. -/

namespace Sys2Proof.Machine

/-! ### The checksum field -/

theorem checksum_congr {b b' : List Byte} (length : b'.length = b.length)
    (same : ∀ i, i ≠ 4 → i ≠ 5 → b'[i]? = b[i]?) : checksum b' = checksum b := by
  rw [checksum, checksum, zeroed_congr length same]

theorem checksum_zeroed (b : List Byte) : checksum (zeroed b) = checksum b :=
  checksum_congr (length_zeroed b) fun _ => getElem?_zeroed

theorem setChecksum_eq (b : List Byte) :
    setChecksum b = (b.set 4 ((checksum b).extractLsb' 8 8)).set 5 ((checksum b).extractLsb' 0 8) := by
  rw [setChecksum, checksum_zeroed]
  exact set_field_again b 0 0 _ _

theorem length_setChecksum (b : List Byte) : (setChecksum b).length = b.length := by
  rw [setChecksum_eq, List.length_set, List.length_set]

/-- The bytes of a packet with its checksum set (`41_checksum.md` R105). -/
theorem getElem?_setChecksum {b : List Byte} (long : 8 ≤ b.length) (i : Nat) :
    (setChecksum b)[i]? =
      if i = 4 then some ((checksum b).extractLsb' 8 8)
      else if i = 5 then some ((checksum b).extractLsb' 0 8)
      else b[i]? := by
  rw [setChecksum_eq]
  by_cases h4 : i = 4
  · rw [if_pos h4, h4, List.getElem?_set_ne (by decide), List.getElem?_set_self (by omega)]
  by_cases h5 : i = 5
  · rw [if_neg h4, if_pos h5, h5, List.getElem?_set_self (by rw [List.length_set]; omega)]
  rw [if_neg h4, if_neg h5, List.getElem?_set_ne (Ne.symm h5), List.getElem?_set_ne (Ne.symm h4)]

theorem zeroed_setChecksum (b : List Byte) : zeroed (setChecksum b) = zeroed b :=
  zeroed_congr (length_setChecksum b) fun i h4 h5 => by
    rw [setChecksum_eq, List.getElem?_set_ne h5.symm, List.getElem?_set_ne h4.symm]

theorem checksum_setChecksum (b : List Byte) : checksum (setChecksum b) = checksum b := by
  rw [checksum, checksum, zeroed_setChecksum]

/-- A packet with its checksum set depends on the bytes outside the field alone. -/
theorem setChecksum_of_zeroed {b b' : List Byte} (same : zeroed b' = zeroed b) : setChecksum b' = setChecksum b := by
  simp only [setChecksum, same]

theorem be16_congr {b b' : List Byte} (same4 : b'[4]? = b[4]?) (same5 : b'[5]? = b[5]?) : be16 b' 4 = be16 b 4 := by
  simp only [be16, List.getD_eq_getElem?_getD, same4, same5]

theorem be16_setChecksum {b : List Byte} (long : 8 ≤ b.length) : be16 (setChecksum b) 4 = checksum b := by
  simp only [be16, List.getD_eq_getElem?_getD, getElem?_setChecksum long]
  exact half_of_bytes (checksum b)

theorem half_inj {h l h' l' : Byte} (same : h ++ l = h' ++ l') : h = h' ∧ l = l' := by
  obtain ⟨high, low⟩ := bytes_of_half h l
  obtain ⟨high', low'⟩ := bytes_of_half h' l'
  rw [same] at high low
  exact ⟨high.symm.trans high', low.symm.trans low'⟩

theorem verify_iff (b : List Byte) : verify b = true ↔ checksum b = be16 b 4 := decide_eq_true_iff

/-- Settles O27: the checksum leaves its field out, so a packet with its checksum set has the checksum it stores. -/
theorem checksumLaws : Obligations.ChecksumLaws := by
  refine ⟨fun b b' _ => checksum_congr, fun b long =>
    ⟨?_, setChecksum_of_zeroed (zeroed_setChecksum b), checksum_setChecksum b⟩⟩
  rw [verify_iff, checksum_setChecksum, be16_setChecksum long]

/-! ### Flipped bits -/

/-- A flipped bit moves a value up or down by the bit's weight. -/
theorem toNat_xor_twoPow {w : Nat} (x : BitVec w) {k : Nat} (hk : k < w) :
    (x ^^^ BitVec.twoPow w k).toNat = x.toNat + 2 ^ k ∨ x.toNat = (x ^^^ BitVec.twoPow w k).toNat + 2 ^ k := by
  have up : ∀ y : BitVec w, y.getLsbD k = false → (y ^^^ BitVec.twoPow w k).toNat = y.toNat + 2 ^ k := by
    intro y clear
    have disjoint : y &&& BitVec.twoPow w k = 0#w := by simp [BitVec.and_twoPow, clear]
    have add : y ^^^ BitVec.twoPow w k = y + BitVec.twoPow w k := by
      rw [BitVec.add_eq_or_of_and_eq_zero y _ disjoint]
      apply BitVec.eq_of_getLsbD_eq
      intro i _
      by_cases same : k = i
      · simp [← same, clear]
      · simp [BitVec.getLsbD_twoPow, same]
    rw [add, BitVec.toNat_add_of_and_eq_zero disjoint, BitVec.toNat_twoPow_of_lt hk]
  cases bit : x.getLsbD k with
  | false => exact .inl (up x bit)
  | true =>
    refine .inr (Eq.trans ?_ (up (x ^^^ BitVec.twoPow w k) ?_))
    · rw [BitVec.xor_assoc, BitVec.xor_self, BitVec.xor_zero]
    · simp [bit, hk]

theorem xor_twoPow_ne_self {w : Nat} (x : BitVec w) {k : Nat} (hk : k < w) : x ^^^ BitVec.twoPow w k ≠ x := by
  intro same
  have moved := toNat_xor_twoPow x hk
  rw [same] at moved
  have := Nat.two_pow_pos k
  omega

/-- The single fold tells apart two sums that differ by at most a half: the carry moves with the difference and never
cancels it (`41_checksum.md` R111). -/
theorem fold1_ne_of_apart {s t d : Nat} (pos : 0 < d) (small : d ≤ 32768) (apart : t = s + d ∨ s = t + d) :
    fold1 t % 65536 ≠ fold1 s % 65536 := by
  have up : ∀ s : Nat, fold1 (s + d) % 65536 ≠ fold1 s % 65536 := by
    intro s
    rw [fold1_eq, fold1_eq]
    rcases Nat.lt_or_ge (s % 65536 + d) 65536 with fits | carries
    · have high : (s + d) / 65536 = s / 65536 := by omega
      have low : (s + d) % 65536 = s % 65536 + d := by omega
      omega
    · have high : (s + d) / 65536 = s / 65536 + 1 := by omega
      have low : (s + d) % 65536 + 65536 = s % 65536 + d := by omega
      omega
  rcases apart with rfl | rfl
  · exact up s
  · exact (up t).symm

theorem checksum_set_flip {b : List Byte} {i k : Nat} (hi : i < b.length) (hk : k < 8) (h4 : i ≠ 4) (h5 : i ≠ 5) :
    checksum (b.set i (b.getD i 0 ^^^ BitVec.twoPow 8 k)) ≠ checksum b := by
  have left_out : ∀ x, zeroed (b.set i x) = (zeroed b).set i x := fun x => by
    rw [zeroed, zeroed, List.set_comm _ _ h4, List.set_comm _ _ h5]
  have byte : (zeroed b).getD i 0 = b.getD i 0 := by
    rw [List.getD_eq_getElem?_getD, getElem?_zeroed h4 h5, ← List.getD_eq_getElem?_getD]
  have sum := rawSum_set (b := zeroed b) (by rwa [length_zeroed]) (b.getD i 0 ^^^ BitVec.twoPow 8 k)
  rw [byte] at sum
  have weight : 0 < byteWeight i * 2 ^ k ∧ byteWeight i * 2 ^ k ≤ 32768 := by
    have := Nat.two_pow_pos k
    have : 2 ^ k ≤ 2 ^ 7 := Nat.pow_le_pow_right (by decide) (by omega)
    rcases byteWeight_eq i with w | w <;> rw [w] <;> omega
  rw [Ne, checksum_eq_iff, left_out]
  refine fold1_ne_of_apart weight.1 weight.2 ?_
  rcases toNat_xor_twoPow (b.getD i 0) hk with up | down
  · rw [up, Nat.mul_add] at sum
    exact .inl (by omega)
  · rw [down, Nat.mul_add] at sum
    exact .inr (by omega)

theorem be16_set_flip {b : List Byte} {i k : Nat} (hi : i < b.length) (hk : k < 8) (field : i = 4 ∨ i = 5) :
    be16 (b.set i (b.getD i 0 ^^^ BitVec.twoPow 8 k)) 4 ≠ be16 b 4 := by
  have flipped : (b.set i (b.getD i 0 ^^^ BitVec.twoPow 8 k)).getD i 0 ≠ b.getD i 0 := by
    rw [List.getD_eq_getElem?_getD, List.getElem?_set_self hi]
    exact xor_twoPow_ne_self _ hk
  intro same
  obtain ⟨high, low⟩ := half_inj same
  rcases field with rfl | rfl
  · exact flipped high
  · exact flipped low

/-- Settles O28: the flipped byte counts either in the sum or in the stored value, never in both. -/
theorem singleBitFlipIsDetected : Obligations.SingleBitFlipIsDetected := by
  intro b i k long hi hk b'
  have unsummed : i = 4 ∨ i = 5 → checksum b' = checksum b := fun field =>
    checksum_congr (List.length_set ..) fun j h4 h5 => List.getElem?_set_ne (by omega)
  have outside : i ≠ 4 → i ≠ 5 → checksum b' ≠ checksum b := checksum_set_flip hi hk
  have inside : i = 4 ∨ i = 5 → be16 b' 4 ≠ be16 b 4 := be16_set_flip hi hk
  refine ⟨outside, fun field => ⟨unsummed field, inside field⟩, fun verified => ?_⟩
  rw [verify_iff] at verified
  rw [← Bool.not_eq_true, verify_iff]
  by_cases field : i = 4 ∨ i = 5
  · rw [unsummed field, verified]
    exact (inside field).symm
  · have stored : be16 b' 4 = be16 b 4 :=
      be16_congr (List.getElem?_set_ne (by omega)) (List.getElem?_set_ne (by omega))
    rw [stored, ← verified]
    exact outside (by omega) (by omega)

/-! ### Blind spots -/

theorem fold1_mod (s : Nat) : fold1 s % 65535 = s % 65535 := by
  rw [fold1_eq]
  omega

theorem checksum_append_zeros {b : List Byte} (long : 8 ≤ b.length) (n : Nat) :
    checksum (b ++ List.replicate n 0x00) = checksum b := by
  have left_out : zeroed (b ++ List.replicate n 0x00) = zeroed b ++ List.replicate n 0x00 := by
    rw [zeroed, zeroed, List.set_append_left _ _ (by omega), List.set_append_left _ _ (by rw [List.length_set]; omega)]
  rw [checksum_eq_iff, left_out, rawSum_append_zeros]

/-- The sum of all bytes is that of the others and of the checksum field. -/
theorem rawSum_eq_zeroed_add {b : List Byte} (long : 8 ≤ b.length) :
    rawSum b = rawSum (zeroed b) + 256 * (b.getD 4 0).toNat + (b.getD 5 0).toNat := by
  have refill : (b.set 4 (b.getD 4 0)).set 5 (b.getD 5 0) = b := by
    rw [List.getD_eq_getElem _ _ (show 4 < b.length by omega), List.set_getElem_self,
      List.getD_eq_getElem _ _ (show 5 < b.length by omega), List.set_getElem_self]
  rw [← rawSum_fill long, refill]

/-- A stretch replaced by one of its length leaves the bytes around it. -/
theorem getElem?_replace {p x y r : List Byte} (length : x.length = y.length) {i : Nat}
    (outside : i < p.length ∨ p.length + y.length ≤ i) : (p ++ x ++ r)[i]? = (p ++ y ++ r)[i]? := by
  simp only [List.getElem?_append, List.length_append, length]
  rcases outside with before | behind
  · simp only [if_pos before, if_pos (Nat.lt_add_right y.length before)]
  · simp only [if_neg (Nat.not_lt.2 behind)]

/-- The bytes that a swap of two words leaves where they are. -/
theorem getD_swap {p q r : List Byte} (h1 l1 h2 l2 : Byte) {i : Nat} (first : i < p.length ∨ p.length + 2 ≤ i)
    (second : i < p.length + 2 + q.length ∨ p.length + 2 + q.length + 2 ≤ i) :
    (p ++ [h1, l1] ++ q ++ [h2, l2] ++ r).getD i 0 = (p ++ [h2, l2] ++ q ++ [h1, l1] ++ r).getD i 0 := by
  have replaced : (p ++ [h1, l1] ++ (q ++ [h2, l2] ++ r))[i]? = (p ++ [h2, l2] ++ (q ++ [h2, l2] ++ r))[i]? :=
    getElem?_replace (x := [h1, l1]) (y := [h2, l2]) rfl first
  have again : (p ++ [h2, l2] ++ q ++ [h2, l2] ++ r)[i]? = (p ++ [h2, l2] ++ q ++ [h1, l1] ++ r)[i]? :=
    getElem?_replace (x := [h2, l2]) (y := [h1, l1]) rfl
      (by simpa only [List.length_append, List.length_cons, List.length_nil] using second)
  rw [List.getD_eq_getElem?_getD, List.getD_eq_getElem?_getD, ← again]
  simp only [List.append_assoc] at replaced ⊢
  rw [replaced]

/-- Swapped words move nothing in the sum, which adds the words up. -/
theorem rawSum_swap {p q : List Byte} (r : List Byte) (h1 l1 h2 l2 : Byte) (hp : p.length % 2 = 0)
    (hq : q.length % 2 = 0) :
    rawSum (p ++ [h1, l1] ++ q ++ [h2, l2] ++ r) = rawSum (p ++ [h2, l2] ++ q ++ [h1, l1] ++ r) := by
  simp only [List.append_assoc, rawSum_append hp, rawSum_append hq, List.cons_append, List.nil_append, rawSum_cons_cons]
  omega

theorem checksum_swap {p q r : List Byte} (h1 l1 h2 l2 : Byte) (hp : p.length % 2 = 0) (hq : q.length % 2 = 0)
    (first : p.length ≠ 4) (second : p.length + 2 + q.length ≠ 4) (long : 8 ≤ p.length + q.length + r.length + 4) :
    checksum (p ++ [h1, l1] ++ q ++ [h2, l2] ++ r) = checksum (p ++ [h2, l2] ++ q ++ [h1, l1] ++ r) := by
  have length : ∀ x y z w : Byte, 8 ≤ (p ++ [x, y] ++ q ++ [z, w] ++ r).length := fun x y z w => by
    simp only [List.length_append, List.length_cons, List.length_nil]
    omega
  have sum := rawSum_swap r h1 l1 h2 l2 hp hq
  have field4 := getD_swap (p := p) (q := q) (r := r) h1 l1 h2 l2 (i := 4) (by omega) (by omega)
  have field5 := getD_swap (p := p) (q := q) (r := r) h1 l1 h2 l2 (i := 5) (by omega) (by omega)
  rw [rawSum_eq_zeroed_add (length ..), rawSum_eq_zeroed_add (length ..), field4, field5] at sum
  rw [checksum_eq_iff, Nat.add_right_cancel (Nat.add_right_cancel sum)]

/-- Settles O29: a sum of words depends on neither their order nor zeros behind them, and the checksum on the folded sum
alone. -/
theorem checksumBlindSpots : Obligations.ChecksumBlindSpots :=
  ⟨fun _ _ _ => checksum_swap, fun _ n long => checksum_append_zeros long n, fold1_mod,
    fun b b' _ _ => checksum_eq_iff b b'⟩

end Sys2Proof.Machine
end

section
/-! The checksum commands (`41_checksum.md` R107 to R109): with a legal length they are the functions on the packet. -/

namespace Sys2Proof.Machine

section LegalLength
variable {s : State} (idle : s.busy = false) (ok : s.lengthOk)
include idle ok

theorem exec_checksum :
    exec .checksum s = .next { s with calcReg := checksum s.packet, code := .ok, draws := s.draws + 1 } := by
  rw [exec_of_issues_of_idle (i := .checksum) (c := 3) (.inl rfl) idle, issue_checksum ok, ← idle]

theorem exec_setcsum :
    exec .setcsum s = .next
      { s with
        buf := s.storeChecksum.buf, csum := checksum s.packet, calcReg := checksum s.packet
        code := .ok, draws := s.draws + 1 } := by
  rw [exec_of_issues_of_idle (i := .setcsum) (c := 4) (.inl rfl) idle, issue_setcsum ok, ← idle]

end LegalLength

/-- Settles O30: the command on an idle block. -/
theorem checksumWritesCalc : Obligations.ChecksumWritesCalc := fun _ => exec_checksum

/-! ### `SETCSUM` -/

/-- The buffer after `SETCSUM`: the two bytes of the packet's checksum in the field. -/
theorem State.read_storeChecksum_bytes (s : State) (a : Nat) :
    Memory.read s.storeChecksum.buf a =
      if a = 4 then some ((checksum s.packet).extractLsb' 8 8)
      else if a = 5 then some ((checksum s.packet).extractLsb' 0 8)
      else Memory.read s.buf a := by
  rw [s.read_storeChecksum, ofNat_shiftRight_toNat]
  by_cases h4 : a = 4
  · rw [if_pos (by omega), if_pos h4, h4]
  · by_cases h5 : a = 5
    · rw [if_pos (by omega), if_neg h4, if_pos h5, h5]
    · rw [if_neg (by omega), if_neg h4, if_neg h5]

/-- Over written bytes the packet after `SETCSUM` is `SetChecksum` of the packet before (`41_checksum.md` R108). -/
theorem State.packet_of_storeChecksum {s t : State} (ok : s.lengthOk)
    (written : ∀ a, a < s.len.toNat → a ≠ 4 → a ≠ 5 → s.written a = true) (hlen : t.len = s.len)
    (hbuf : t.buf = s.storeChecksum.buf) : t.packet = setChecksum s.packet := by
  have long : 8 ≤ s.packet.length := s.length_packet ▸ ok.1
  have stored := fun a => (congrArg (Memory.read · a) hbuf).trans (s.read_storeChecksum_bytes a)
  apply List.ext_getElem?
  intro a
  rw [getElem?_setChecksum long, State.getElem?_packet, State.getElem?_packet, hlen]
  rw [s.length_packet] at long
  by_cases h4 : a = 4
  · rw [if_pos (by omega), if_pos h4, State.byteAt_of_read ((stored a).trans (if_pos h4))]
  rw [if_neg h4]
  by_cases h5 : a = 5
  · rw [if_pos (by omega), if_pos h5, State.byteAt_of_read ((stored a).trans ((if_neg h4).trans (if_pos h5)))]
  rw [if_neg h5]
  split
  · rename_i ha
    rw [State.byteAt_of_written (written a ha h4 h5) ((stored a).trans ((if_neg h4).trans (if_neg h5)))]
  · rfl

/-- Settles O31: the two bytes of the sum are stored, which over written bytes is `SetChecksum`. -/
theorem setcsumStoresChecksum : Obligations.SetcsumStoresChecksum := fun s idle ok =>
  ⟨s.storeChecksum.buf, exec_setcsum idle ok, s.read_storeChecksum_bytes, fun written _ =>
    State.packet_of_storeChecksum ok written rfl rfl⟩

/-! ### `VERIFY` -/

/-- `Verify` compares with the field that `DecodeHeader` returns. -/
theorem be16_of_decodeHeader {b : List Byte} {h : HeaderFields} (decodes : decodeHeader b = some h) :
    be16 b 4 = h.csum := by
  unfold decodeHeader at decodes
  split at decodes
  · obtain rfl := Option.some.inj decodes
    rfl
  · cases decodes

theorem exec_verify_of_lengthOk {s : State} (idle : s.busy = false) (ok : s.lengthOk) :
    exec .verify s = .next
      { s with
        calcReg := checksum s.packet
        code := if verify s.packet = true then .ok else .checksumMismatch
        draws := s.draws + 1 } := by
  have decodes := State.decodeHeader_packet ok
  simp only [exec_verify idle ok decodes, verify_iff, be16_of_decodeHeader decodes]

/-- Settles O32: the field that the command compares with is the packet's own. -/
theorem verifyComparesStoredChecksum : Obligations.VerifyComparesStoredChecksum := fun _ =>
  exec_verify_of_lengthOk

end Sys2Proof.Machine
end

section
/-! Stale bytes (`41_checksum.md` R107, `70_reset_and_hazards.md` R157): what stands in the buffer at and above `LEN` has
no influence on the commands that read the packet. -/

namespace Sys2Proof.Machine

/-- On a buffer that agrees with the state's below `LEN` the instruction leaves the same registers and the same bytes
below `LEN`, and every byte at and above `LEN` as it was; only `SETCSUM` stores. -/
def StaleBytesIgnored (i : Instr) (s : State) (m : Memory) : Prop :=
  ∀ t, exec i s = .next t →
    ∃ m', exec i { s with buf := m } = .next { t with buf := m' }
      ∧ (∀ a, a < s.len.toNat → Memory.read m' a = Memory.read t.buf a)
      ∧ (∀ a, s.len.toNat ≤ a → Memory.read m' a = Memory.read m a ∧ Memory.read t.buf a = Memory.read s.buf a)
      ∧ (i ≠ .setcsum → m' = m ∧ t.buf = s.buf)

section Agreeing
variable {s : State} {m : Memory} (agree : ∀ a, a < s.len.toNat → Memory.read m a = Memory.read s.buf a)
include agree

/-- An instruction that stores nothing ignores the stale bytes when it leaves the same registers on both buffers. -/
theorem StaleBytesIgnored.of_kept {i : Instr} {t : State} (first : exec i s = .next t)
    (second : exec i { s with buf := m } = .next { t with buf := m }) (kept : t.buf = s.buf) :
    StaleBytesIgnored i s m := by
  intro t' first'
  obtain rfl : t = t' := Host.Outcome.next.inj (first.symm.trans first')
  exact ⟨m, second, fun a ha => (agree a ha).trans (by rw [kept]), fun _ _ => ⟨rfl, by rw [kept]⟩, fun _ => ⟨rfl, kept⟩⟩

/-- With an illegal length nothing is read. -/
theorem staleBytesIgnored_of_not_lengthOk {i : Instr} {c : Byte} (issues : Issues i c)
    (hc : c = 2 ∨ c = 3 ∨ c = 4 ∨ c = 5) (idle : s.busy = false) (illegal : ¬ s.lengthOk) :
    StaleBytesIgnored i s m :=
  .of_kept agree ((exec_of_issues_of_idle issues idle).trans (issue_of_not_lengthOk hc illegal))
    ((exec_of_issues_of_idle (s := { s with buf := m }) issues idle).trans (issue_of_not_lengthOk hc illegal)) rfl

/-- A written byte of the packet reads the same in both buffers. -/
theorem State.byteAt_agreeing {a : Nat} (ha : a < s.len.toNat) (written : s.written a = true) :
    State.byteAt { s with buf := m } a = s.byteAt a :=
  State.byteAt_of_written written (agree a ha)

theorem State.checksum_packet_agreeing (written : ∀ a, a < s.len.toNat → a ≠ 4 → a ≠ 5 → s.written a = true) :
    checksum (State.packet { s with buf := m }) = checksum s.packet :=
  State.checksum_packet_congr rfl fun a ha h4 h5 => State.byteAt_agreeing agree ha (written a ha h4 h5)

variable (idle : s.busy = false) (ok : s.lengthOk)
include idle ok

theorem staleBytesIgnored_decode (written : ∀ a, a < 8 → s.written a = true) : StaleBytesIgnored .decode s m := by
  have long : 8 ≤ s.len.toNat := ok.1
  have loads := State.loadHeader_congr (s := s) (t := { s with buf := m }) fun a ha =>
    State.byteAt_agreeing agree (by omega) (written a ha)
  have decodes := State.decodeHeader_packet (s := { s with buf := m }) ok
  rw [loads] at decodes
  exact .of_kept agree (exec_decode idle ok (State.decodeHeader_packet ok))
    (exec_decode (s := { s with buf := m }) idle ok decodes) rfl

theorem staleBytesIgnored_checksum (written : ∀ a, a < s.len.toNat → a ≠ 4 → a ≠ 5 → s.written a = true) :
    StaleBytesIgnored .checksum s m := by
  have second := exec_checksum (s := { s with buf := m }) idle ok
  rw [State.checksum_packet_agreeing agree written] at second
  exact .of_kept agree (exec_checksum idle ok) second rfl

theorem staleBytesIgnored_setcsum (written : ∀ a, a < s.len.toNat → a ≠ 4 → a ≠ 5 → s.written a = true) :
    StaleBytesIgnored .setcsum s m := by
  have long : 8 ≤ s.len.toNat := ok.1
  have sum := State.checksum_packet_agreeing agree written
  have second := exec_setcsum (s := { s with buf := m }) idle ok
  have stored := State.read_storeChecksum { s with buf := m }
  rw [sum] at second
  simp only [sum] at stored
  intro t first
  obtain rfl := Host.Outcome.next.inj ((exec_setcsum idle ok).symm.trans first)
  refine ⟨_, second, fun a ha => ?_, fun a ha => ⟨?_, ?_⟩, fun other => absurd rfl other⟩
  · rw [stored, agree a ha]
    exact (s.read_storeChecksum a).symm
  · exact (stored a).trans (if_neg (by omega))
  · exact (s.read_storeChecksum a).trans (if_neg (by omega))

theorem staleBytesIgnored_verify (written : s.writtenFrom 0) : StaleBytesIgnored .verify s m := by
  have packet : State.packet { s with buf := m } = s.packet :=
    State.packet_congr rfl fun a ha => State.byteAt_agreeing agree ha (written a a.zero_le ha)
  have second := exec_verify_of_lengthOk (s := { s with buf := m }) idle ok
  rw [packet] at second
  exact .of_kept agree (exec_verify_of_lengthOk idle ok) second rfl

end Agreeing

theorem issues_of_reading {i : Instr} (reading : i ∈ [Instr.decode, .checksum, .setcsum, .verify]) :
    ∃ c, Issues i c ∧ (c = 2 ∨ c = 3 ∨ c = 4 ∨ c = 5) := by
  simp only [List.mem_cons, List.not_mem_nil, or_false] at reading
  rcases reading with rfl | rfl | rfl | rfl
  · exact ⟨2, .inl rfl, .inl rfl⟩
  · exact ⟨3, .inl rfl, .inr (.inl rfl)⟩
  · exact ⟨4, .inl rfl, .inr (.inr (.inl rfl))⟩
  · exact ⟨5, .inl rfl, .inr (.inr (.inr rfl))⟩

/-- Settles O42: the bytes that a command reads lie below `LEN`, where both buffers agree. -/
theorem staleBytesDoNotMatter : Obligations.StaleBytesDoNotMatter := by
  intro i s t m reading reads agree first
  suffices ignored : StaleBytesIgnored i s m from ignored t first
  obtain ⟨c, issues, hc⟩ := issues_of_reading reading
  obtain ⟨idle, -⟩ := State.whenIdle_next ((exec_of_issues issues s).symm.trans first)
  by_cases ok : s.lengthOk
  · have long : 8 ≤ s.len.toNat := ok.1
    simp only [List.mem_cons, List.not_mem_nil, or_false] at reading
    rcases reading with rfl | rfl | rfl | rfl
    · exact staleBytesIgnored_decode agree idle ok fun a ha => reads a (.inr ⟨ok, by omega, .inl ⟨.inl rfl, ha⟩⟩)
    · exact staleBytesIgnored_checksum agree idle ok fun a ha h4 h5 =>
        reads a (.inr ⟨ok, ha, .inr (.inl ⟨.inl (.inl rfl), h4, h5⟩)⟩)
    · exact staleBytesIgnored_setcsum agree idle ok fun a ha h4 h5 =>
        reads a (.inr ⟨ok, ha, .inr (.inl ⟨.inr (.inl rfl), h4, h5⟩)⟩)
    · exact staleBytesIgnored_verify agree idle ok fun a _ ha => reads a (.inr ⟨ok, ha, .inr (.inr (.inl rfl))⟩)
  · exact staleBytesIgnored_of_not_lengthOk agree issues hc idle ok

end Sys2Proof.Machine
end

section
/-! Packets that verify and packets that do not (`70_reset_and_hazards.md` R158, `60_exceptions.md` R132): what `PACK`
leaves verifies, and a bit flipped afterwards is reported. -/

namespace Sys2Proof.Machine

/-! ### The packed packet -/

theorem State.verify_packet_packed {s : State} (ok : s.lengthOk) (payload : s.writtenFrom 8) :
    verify s.packed.packet = true := by
  rw [verify_iff, State.checksum_packet_packed payload, be16_of_decodeHeader (State.decodeHeader_packet_packed ok)]

theorem State.read_encoded (s : State) (a : Nat) :
    Memory.read s.encoded.buf a =
      if a < 8 then (encodeHeader s.seq s.csum (synOf s.flags) (ackOf s.flags) (reqOf s.flags))[a]?
      else Memory.read s.buf a :=
  s.read_headerStored a

/-- Settles O43: the packed packet verifies, and its header is that of the registers already. -/
theorem packedPacketVerifies : Obligations.PackedPacketVerifies := by
  intro s idle ok payload
  refine ⟨s.packed, runOps_packScript idle ok, ⟨_, exec_verify_of_lengthOk (s := s.packed) idle ok, ?_⟩,
    _, exec_encode (s := s.packed) idle, fun a => ?_⟩
  · exact if_pos (State.verify_packet_packed ok payload)
  · have flags : s.packed.flags = s.flags := rfl
    rw [State.read_encoded, flags, s.read_packed]
    split_ifs <;> rfl

/-! ### A flipped bit in the buffer -/

theorem State.byteAt_writeByte (s : State) (a : Nat) (d : Byte) (b : Nat) :
    (s.writeByte a d).byteAt b = if b = a then d else s.byteAt b := by
  by_cases same : b = a
  · rw [if_pos same, State.byteAt_of_read ((Memory.read_write ..).trans (if_pos same))]
  · simp only [State.byteAt, Memory.byteAt, State.writeByte_buf, State.writeByte_draws, Memory.read_write, if_neg same]

theorem State.packet_writeByte (s : State) (a : Nat) (d : Byte) : (s.writeByte a d).packet = s.packet.set a d := by
  apply List.ext_getElem?
  intro i
  rw [List.getElem?_set, State.length_packet, State.getElem?_packet, State.getElem?_packet, State.writeByte_len,
    State.byteAt_writeByte]
  by_cases here : a = i
  · rw [if_pos here, if_pos here.symm, ← here]
  · rw [if_neg here, if_neg (Ne.symm here)]

/-- A verified packet with one bit flipped no longer verifies (`41_checksum.md` R111). -/
theorem State.verify_packet_flipped {s : State} (ok : s.lengthOk) (verified : verify s.packet = true) {a k : Nat}
    (ha : a < s.len.toNat) (hk : k < 8) :
    verify (s.writeByte a (s.byteAt a ^^^ BitVec.twoPow 8 k)).packet = false := by
  have byte : s.packet.getD a 0 = s.byteAt a := by
    rw [List.getD_eq_getElem?_getD, State.getElem?_packet, if_pos ha, Option.getD_some]
  obtain ⟨-, -, detected⟩ := singleBitFlipIsDetected s.packet a k (s.length_packet ▸ ok.1) (s.length_packet ▸ ha) hk
  rw [State.packet_writeByte, ← byte]
  exact detected verified

theorem exec_verify_mismatch {s : State} (idle : s.busy = false) (ok : s.lengthOk) (fails : verify s.packet = false) :
    ∃ t, exec .verify s = .next t ∧ t.code = .checksumMismatch :=
  ⟨_, exec_verify_of_lengthOk idle ok, if_neg (Bool.not_eq_true _ ▸ fails)⟩

/-- Settles O45: `WBUF` flips a bit of the packet, which no longer verifies. -/
theorem flippedBufferBitIsReported : Obligations.FlippedBufferBitIsReported := by
  intro s a k idle ok _ verified ha hk
  obtain ⟨t, reported, code⟩ := exec_verify_mismatch (s := s.writeByte a.toNat _) idle ok
    (State.verify_packet_flipped ok verified ha hk)
  exact ⟨t, runOps_pair (exec_wbuf idle a _) reported, code⟩

/-! ### A stale checksum -/

theorem State.packet_of_read {s t : State} (hlen : t.len = s.len) (hdraws : t.draws = s.draws)
    (same : ∀ a, Memory.read t.buf a = Memory.read s.buf a) : t.packet = s.packet :=
  State.packet_congr hlen fun a _ => by simp only [State.byteAt, Memory.byteAt, same, hdraws]

/-- The bytes of a single bit of a word. -/
theorem extractLsb'_twoPow {k : Nat} (hk : k < 32) (j : Nat) :
    (BitVec.twoPow 32 k).extractLsb' (8 * j) 8 = if k / 8 = j then BitVec.twoPow 8 (k % 8) else 0#8 := by
  apply BitVec.eq_of_getLsbD_eq
  intro i hi
  have offset : k = 8 * j + i ↔ k / 8 = j ∧ i = k % 8 := by omega
  by_cases byte : k / 8 = j
  · simp [offset, byte, hi, hk]
  · simp [BitVec.getLsbD_twoPow, offset, byte]

/-- A bit of `SEQ` flipped flips one bit of the encoded header. -/
theorem encodeHeader_flip (seq : Word) (csum : Half) (syn ack req : Bool) {k : Nat} (hk : k < 32) :
    encodeHeader (seq ^^^ BitVec.twoPow 32 k) csum syn ack req =
      (encodeHeader seq csum syn ack req).set (3 - k / 8)
        ((encodeHeader seq csum syn ack req).getD (3 - k / 8) 0 ^^^ BitVec.twoPow 8 (k % 8)) := by
  have bit := extractLsb'_twoPow hk
  have byte : k / 8 < 4 := by omega
  simp only [encodeHeader, BitVec.extractLsb'_xor, bit 3, bit 2, bit 1, bit 0]
  generalize k / 8 = j at byte
  interval_cases j <;> simp

theorem runOps_append_of_next {is : List Instr} {s t : State} (h : runOps is s = .next t) (js : List Instr) :
    runOps (is ++ js) s = runOps js t := by
  induction is generalizing s with
  | nil =>
    obtain rfl := Host.Outcome.next.inj h
    rfl
  | cons i is ih =>
    simp only [List.cons_append, runOps] at h ⊢
    split at h
    · exact ih h
    · cases h
    · cases h

theorem State.byteAt_of_stored {s : State} {bs : List Byte} {a : Nat} (ha : a < bs.length)
    (stored : Memory.read s.buf a = bs[a]?) : s.byteAt a = bs.getD a 0 := by
  rw [List.getD_eq_getElem _ _ ha]
  exact State.byteAt_of_read (stored.trans (List.getElem?_eq_getElem ha))

/-- A new sequence number, as a `WREG` leaves it (`10_state.md` R11). -/
def State.withSeq (s : State) (seq : Word) : State := { s with seq := seq }

theorem exec_wreg_seq {s : State} (idle : s.busy = false) (seq : Word) :
    exec (.wreg 0 seq) s = .next (s.withSeq seq) :=
  exec_wreg idle (by decide) seq

/-- Encoding a packed header again, a bit of `SEQ` flipped, flips a bit of the packet and leaves the checksum stale
(`70_reset_and_hazards.md` R158). -/
theorem State.packet_encoded_flipped (s : State) {k : Nat} (hk : k < 32) :
    (s.packed.withSeq (s.seq ^^^ BitVec.twoPow 32 k)).encoded.packet =
      (s.packed.writeByte (3 - k / 8) (s.packed.byteAt (3 - k / 8) ^^^ BitVec.twoPow 8 (k % 8))).packet := by
  have first : 3 - k / 8 < 8 := by omega
  have stored : ∀ a, a < 8 → Memory.read s.packed.buf a =
      (encodeHeader s.seq s.packed.csum (synOf s.flags) (ackOf s.flags) (reqOf s.flags))[a]? :=
    fun a header => (s.read_packed a).trans (if_pos header)
  have byte : s.packed.byteAt (3 - k / 8) =
      (encodeHeader s.seq s.packed.csum (synOf s.flags) (ackOf s.flags) (reqOf s.flags)).getD (3 - k / 8) 0 :=
    State.byteAt_of_stored first (stored _ first)
  refine State.packet_of_read rfl rfl fun a => ?_
  have encoded : Memory.read (s.packed.withSeq (s.seq ^^^ BitVec.twoPow 32 k)).encoded.buf a =
      if a < 8 then
        (encodeHeader (s.seq ^^^ BitVec.twoPow 32 k) s.packed.csum (synOf s.flags) (ackOf s.flags) (reqOf s.flags))[a]?
      else Memory.read s.packed.buf a :=
    State.read_encoded _ a
  rw [encoded, encodeHeader_flip _ _ _ _ _ hk, ← byte, State.writeByte_buf, Memory.read_write, List.getElem?_set]
  by_cases flipped : a = 3 - k / 8
  · rw [if_pos flipped, if_pos (by omega), if_pos flipped.symm, if_pos (by exact first)]
  · rw [if_neg flipped, if_neg (Ne.symm flipped)]
    split
    · rename_i header
      exact (stored a header).symm
    · rfl

/-- Settles O44: the packet encoded again is the packed one with a bit flipped, which no longer verifies. -/
theorem staleChecksumIsReported : Obligations.StaleChecksumIsReported := by
  intro s k idle ok payload hk
  have header : 8 ≤ s.len.toNat := ok.1
  have first : 3 - k / 8 < s.packed.len.toNat := Nat.lt_of_lt_of_le (by omega) header
  have fails := State.verify_packet_flipped (s := s.packed) ok (State.verify_packet_packed ok payload) first
    (Nat.mod_lt k (by decide))
  rw [← s.packet_encoded_flipped hk] at fails
  obtain ⟨t, reported, code⟩ := exec_verify_mismatch (by exact idle) (by exact ok) fails
  refine ⟨t, ?_, code⟩
  rw [runOps_append_of_next (runOps_packScript idle ok), runOps_cons_of_next (exec_wreg_seq (s := s.packed) idle _)]
  exact runOps_pair (exec_encode (by exact idle)) reported

end Sys2Proof.Machine
end

section
/-! The host's port operations (`42_host_access.md` R120 to R123) and the reserved command codes (R125), in an idle
block. -/

namespace Sys2Proof.Machine

/-! ### The buffer port -/

/-- Settles O10: the stored buffer is a write of one byte, which reads as itself and leaves the others. -/
theorem wbufStoresOneByte : Obligations.WbufStoresOneByte := fun a d s idle =>
  ⟨Memory.write s.buf a.toNat d, exec_wbuf idle a d, fun b => Memory.read_write s.buf a.toNat b d⟩

/-- Settles O11: the byte on `buf_rdata` is the one at the offset, written or free. -/
theorem rbufReturnsByte : Obligations.RbufReturnsByte := fun a s idle =>
  ⟨s.byteAt a.toNat, exec_rbuf idle a, fun _ => State.byteAt_of_read, State.byteAt_of_unwritten⟩

/-! ### Register writes -/

/-- Only the numbers 0, 1, 2 and 4 are stored to (R122). -/
theorem State.writeReg_of_not_storage {r : RegNum} (h0 : r ≠ 0) (h1 : r ≠ 1) (h2 : r ≠ 2) (h4 : r ≠ 4) (s : State)
    (v : Word) : s.writeReg r v = s := by
  rcases writeReg_cases s r v with ⟨h, -⟩ | ⟨h, -⟩ | ⟨h, -⟩ | ⟨h, -⟩ | ⟨-, -, -, -, e⟩
  · exact absurd h h0
  · exact absurd h h1
  · exact absurd h h2
  · exact absurd h h4
  · exact e

/-- Settles O12: a storage register keeps the low bits, a write to `CMD` is the CMD8 row of the low byte, and any other
write stores nothing. -/
theorem wregStoresLowBits : Obligations.WregStoresLowBits := by
  intro v s idle
  refine ⟨exec_wreg idle (by decide) v, ?csum, ?flags, ?len, exec_wreg_cmd v s, fun r ignored => ?ignored⟩
  case csum =>
    rw [exec_wreg idle (by decide), ← low_bits v 16]
    rfl
  case flags =>
    rw [exec_wreg idle (by decide), ← low_bits v 8]
    rfl
  case len =>
    rw [exec_wreg idle (by decide), ← low_bits v 11]
    rfl
  case ignored =>
    have apart : r ≠ 0 ∧ r ≠ 1 ∧ r ≠ 2 ∧ r ≠ 4 ∧ r ≠ 5 := by
      revert r
      decide
    obtain ⟨h0, h1, h2, h4, h5⟩ := apart
    rw [exec_wreg idle h5, State.writeReg_of_not_storage h0 h1 h2 h4]

/-! ### Register reads -/

/-- A read of `STATUS`, which a busy block answers too (`70_reset_and_hazards.md` R156). -/
theorem exec_rreg_status (s : State) : exec (.rreg 6) s = .next { s with regRdata := s.statusWord.setWidth 32 } := by
  have allowed : ¬(s.busy && decide ((6 : RegNum).toNat ≠ 6)) = true := by simp
  exact if_neg allowed

/-- A read of a register that the map zero-extends, by an idle block (R123). -/
theorem exec_rreg_of_setWidth {s : State} (idle : s.busy = false) {r : RegNum} {n : Nat} {x : BitVec n}
    (extended : s.readReg r = x.setWidth 32) :
    exec (.rreg r) s = .next { s with regRdata := BitVec.ofNat 32 x.toNat } := by
  rw [exec_rreg idle, extended, BitVec.ofNat_toNat]

/-- The reserved numbers read zero (R123). -/
theorem State.readReg_of_reserved (s : State) {r : RegNum} (reserved : 9 ≤ r.toNat) : s.readReg r = 0 := by
  unfold State.readReg
  split
  case h_10 => rfl
  all_goals omega

/-- Settles O14: `STATUS` is `BUSY << 7` with the number of `CODE`, and every other read is the register map's. -/
theorem rregReadsRegisterMap : Obligations.RregReadsRegisterMap := by
  intro s
  refine ⟨?status, fun idle => ⟨exec_rreg idle 0, exec_rreg_of_setWidth idle rfl, exec_rreg_of_setWidth idle rfl,
    exec_rreg_of_setWidth idle rfl, exec_rreg_of_setWidth idle rfl, exec_rreg idle 5, exec_rreg_of_setWidth idle rfl,
    exec_rreg_of_setWidth idle s.readReg_kind, fun r reserved => ?reserved⟩⟩
  case status =>
    rw [exec_rreg_status, State.statusWord]
    cases s.busy <;> cases s.code <;> rfl
  case reserved => rw [exec_rreg idle, s.readReg_of_reserved reserved]

/-! ### Reserved command codes -/

/-- A row of a reserved code leaves `BAD_CMD` and nothing else: the block was idle before its one step. -/
theorem exec_badcmd {s : State} (idle : s.busy = false) (c : Byte) :
    exec (.badcmd c) s = .next { s with code := .badCmd } := by
  calc exec (.badcmd c) s
    _ = .next (s.start.raise .badCmd) := State.whenIdle_of_idle idle _
    _ = .next { s with code := .badCmd, busy := false } := rfl
    _ = .next { s with code := .badCmd } := by rw [← idle]

/-- Settles O16: the row is `raise BAD_CMD`, and the write to `CMD` is the row of its low byte. -/
theorem badcmdChangesOnlyCode : Obligations.BadcmdChangesOnlyCode := by
  intro c s idle reserved
  have code : reservedCode c = true := decide_eq_true (reserved.imp_left (congrArg BitVec.toNat))
  refine ⟨exec_badcmd idle c, fun v low => ?_⟩
  rw [exec_wreg_cmd, low, decodeCmd8_of_reserved code, exec_badcmd idle]

end Sys2Proof.Machine
end

section
/-! The ends of operations (`60_exceptions.md` R130 to R141): every operation of an idle block completes, the code a
command ends with, and what a command that fails leaves as it was. -/

namespace Sys2Proof.Machine

/-! ### Every operation completes -/

@[simp] theorem State.writeReg_inputs (s : State) (r : RegNum) (v : Word) : (s.writeReg r v).inputs = s.inputs := by
  rcases writeReg_cases s r v with ⟨-, e⟩ | ⟨-, e⟩ | ⟨-, e⟩ | ⟨-, e⟩ | ⟨-, -, -, -, e⟩ <;> rw [e]

/-- A command leaves the host's inputs alone. -/
theorem issue_inputs {c : Byte} {s t : State} (h : issue c s = .next t) : t.inputs = s.inputs := by
  rcases issue_cases h with ⟨_, -, rfl⟩ | ⟨-, _, rfl, -⟩ | ⟨-, rfl⟩ | ⟨-, rfl⟩ | ⟨-, _, _, rfl, -⟩ | ⟨-, _, -, rfl⟩ <;>
    rfl

/-- The answer is a next state in which the block is idle and the inputs still to come are those of `s`. -/
def CompletesFrom (s : State) (r : Result) : Prop := ∃ t, r = .next t ∧ t.busy = false ∧ t.inputs = s.inputs

theorem completesFrom_issue (c : Byte) (s : State) : CompletesFrom s (issue c s) :=
  (issue_completes c s).imp fun _ ⟨h, ended⟩ => ⟨h, ended, issue_inputs h⟩

theorem completesFrom_of_issues {i : Instr} {c : Byte} {s : State} (hi : Issues i c) (idle : s.busy = false) :
    CompletesFrom s (exec i s) :=
  exec_of_issues_of_idle hi idle ▸ completesFrom_issue c s

/-- Storing the header word before `DECODE` leaves the inputs alone (log entry 1). -/
theorem completesFrom_of_headerRow {i : Instr} {s : State} (hi : isHeaderRow i = true) (idle : s.busy = false) :
    CompletesFrom s (exec i s) := by
  obtain ⟨h, row⟩ := exec_headerRow hi s
  rw [row, receiveHeader_eq, State.whenIdle_of_idle idle]
  exact completesFrom_issue 2 (s.headerPlaced h.toNat)

/-- Settles O35: a command and the `DECODE` of a packet-kind row complete, and a port operation answers at once. -/
theorem everyOperationCompletes : Obligations.EveryOperationCompletes := by
  intro i s idle
  show CompletesFrom s (exec i s)
  cases i with
  | encode => exact completesFrom_of_issues (c := 1) (.inl rfl) idle
  | decode => exact completesFrom_of_issues (c := 2) (.inl rfl) idle
  | checksum => exact completesFrom_of_issues (c := 3) (.inl rfl) idle
  | setcsum => exact completesFrom_of_issues (c := 4) (.inl rfl) idle
  | verify => exact completesFrom_of_issues (c := 5) (.inl rfl) idle
  | badcmd c => exact ⟨_, exec_badcmd idle c, idle, rfl⟩
  | wbuf a d => exact ⟨_, exec_wbuf idle a d, idle, rfl⟩
  | rbuf a => exact ⟨_, exec_rbuf idle a, idle, rfl⟩
  | wreg r v =>
    by_cases cmd : r = 5
    · exact completesFrom_of_issues (.inr ⟨v, by rw [cmd]; rfl, rfl⟩) idle
    · exact ⟨_, exec_wreg idle cmd v, (s.writeReg_busy r v).trans idle, s.writeReg_inputs r v⟩
  | rreg r => exact ⟨_, exec_rreg idle r, idle, rfl⟩
  | connectReq | connectAck | fileReq | reqAck | data | dataAck | undefinedSynReq | undefinedSynAckReq =>
    exact completesFrom_of_headerRow rfl idle

/-! ### A failing command -/

/-- Settles O39: a command that fails ended on a bad code or length, which changes the status alone, or is a `VERIFY`
that found a mismatch. -/
theorem failingCommandHasNoPartialEffect : Obligations.FailingCommandHasNoPartialEffect := by
  intro i c s t hi idle h failed
  rw [exec_of_issues_of_idle hi idle] at h
  rcases issue_cases h with ⟨_, -, rfl⟩ | ⟨-, _, rfl, -⟩ | ⟨-, rfl⟩ | ⟨-, rfl⟩ | ⟨-, _, _, rfl, -⟩ | ⟨-, _, e, rfl⟩
  · exact ⟨by rw [← idle], fun _ => ⟨rfl, rfl⟩⟩
  · exact absurd rfl failed
  · exact absurd rfl failed
  · exact absurd rfl failed
  · exact absurd rfl failed
  · rcases e with rfl | rfl
    · exact absurd rfl failed
    · exact ⟨by rw [← idle], fun other => absurd rfl other⟩

/-! ### The status of a command -/

/-- The command codes (`60_exceptions.md` R136): the reserved ones, `ENCODE`, and the four that read `LEN`. -/
theorem reserved_or_command (c : Byte) :
    (c = 0 ∨ 6 ≤ c.toNat) ∨ c = 1 ∨ (c = 2 ∨ c = 3 ∨ c = 4 ∨ c = 5) := by
  revert c
  decide

/-- An instruction does what the CMD8 row of the code it issues does. -/
theorem exec_eq_decodeCmd8 {i : Instr} {c : Byte} (hi : Issues i c) (s : State) : exec i s = exec (decodeCmd8 c) s :=
  (exec_of_issues hi s).trans (exec_decodeCmd8 c s).symm

/-- The status of a command that reads `LEN`: the length checks, upper bound first, then `VERIFY`'s comparison. -/
theorem status_of_reading {c : Byte} (reading : c = 2 ∨ c = 3 ∨ c = 4 ∨ c = 5) {s : State} (idle : s.busy = false) :
    ∃ t, exec (decodeCmd8 c) s = .next t
      ∧ t.code =
          (if 1024 < s.len.toNat then .lenError
           else if s.len.toNat < 8 then .malformedHeader
           else if c = 0x05 ∧ checksum s.packet ≠ be16 s.packet 4 then .checksumMismatch
           else .ok) := by
  by_cases ok : s.lengthOk
  · rw [if_neg (Nat.not_lt.2 ok.2), if_neg (Nat.not_lt.2 ok.1)]
    rcases reading with rfl | rfl | rfl | rfl
    · exact ⟨_, exec_decode idle ok (State.decodeHeader_packet ok), rfl⟩
    · exact ⟨_, exec_checksum idle ok, rfl⟩
    · exact ⟨_, exec_setcsum idle ok, rfl⟩
    · refine ⟨_, exec_verify_of_lengthOk idle ok, ?_⟩
      simp only [verify_iff, true_and, ite_not]
  · rw [exec_decodeCmd8, State.whenIdle_of_idle idle, issue_of_not_lengthOk reading ok]
    refine ⟨_, rfl, ?_⟩
    by_cases long : 1024 < s.len.toNat
    · rw [if_pos long, if_pos long]
    · have short : s.len.toNat < 8 := Nat.lt_of_not_le fun header => ok ⟨header, Nat.not_lt.1 long⟩
      rw [if_neg long, if_neg long, if_pos short]

/-- Settles O40: a reserved code ends with `BAD_CMD`, `ENCODE` with `OK`, and the other commands check `LEN` first. -/
theorem statusOfEveryCommand : Obligations.StatusOfEveryCommand := by
  intro i c s hi idle
  rw [exec_eq_decodeCmd8 hi]
  rcases reserved_or_command c with reserved | rfl | reading
  · rw [if_pos reserved, decodeCmd8_of_reserved (decide_eq_true (reserved.imp_left (congrArg BitVec.toNat)))]
    exact ⟨_, exec_badcmd idle c, rfl⟩
  · exact ⟨_, exec_encode idle, rfl⟩
  · have defined : ¬(c = 0x00 ∨ 0x06 ≤ c.toNat) ∧ c ≠ 0x01 := by
      rcases reading with rfl | rfl | rfl | rfl <;> decide
    rw [if_neg defined.1, if_neg defined.2]
    exact status_of_reading reading idle

end Sys2Proof.Machine
end

section
/-! Reset and hazards (`70_reset_and_hazards.md` R150 to R156): what an `rst` edge answers, what the first operation after
reset finds, and what a busy block refuses. -/

namespace Sys2Proof.Machine

/-! ### A busy block -/

/-- A busy block answers no instruction but a read of `STATUS` (R156): every other meaning is guarded. -/
theorem exec_of_busy {s : State} (busy : s.busy = true) {i : Instr} (other : i ≠ .rreg 6) :
    exec i s = .refused .portWhileBusy := by
  cases i with
  | rreg r =>
    have notStatus : r.toNat ≠ 6 := fun h => other (congrArg Instr.rreg (BitVec.eq_of_toNat_eq h))
    have refuses : (s.busy && decide (r.toNat ≠ 6)) = true := by rw [busy, decide_eq_true notStatus]; rfl
    exact if_pos refuses
  | encode | decode | checksum | setcsum | verify | badcmd | wbuf | rbuf | wreg
  | connectReq | connectAck | fileReq | reqAck | data | dataAck | undefinedSynReq | undefinedSynAckReq =>
    exact State.whenIdle_of_busy busy _

/-- `STATUS` as a busy block reads it: bit 7 set over `CODE` (R17). -/
theorem State.statusWord_of_busy {s : State} (busy : s.busy = true) :
    s.statusWord.setWidth 32 = 0x80#32 ||| s.code.toBits.setWidth 32 := by
  rw [State.statusWord, busy]
  cases s.code <;> rfl

/-- Settles O17: every meaning but the read of `STATUS` refuses a busy block, and that read shows bit 7 over `CODE`. -/
theorem busyAllowsOnlyStatusRead : Obligations.BusyAllowsOnlyStatusRead := fun s busy =>
  ⟨fun _ other => exec_of_busy busy other, by rw [exec_rreg_status, State.statusWord_of_busy busy]⟩

/-! ### The `rst` edge -/

/-- An `rst` edge is taken in every state (R150); it leaves the queue. -/
theorem step_of_rst {s : State} {rest : List HostInput} (edge : s.inputs = .rst :: rest) :
    step s = .next (State.takeReset { s with inputs := rest }) := by
  simp only [step, stepWith, State.nextInput, edge, runInput]

/-- The header of zeros is clean, so its kind, `DATA`, does not depend on `STRICT_RESERVED` (R71). -/
theorem kind_zero : kind 0 0 = 5 := by decide

/-- Settles O8: the step answers `takeReset`, whose registers are those of the reset state and whose buffer is empty. -/
theorem rstEdgeResets : Obligations.RstEdgeResets := fun _ _ edge =>
  ⟨_, step_of_rst edge, rfl, rfl, rfl, rfl, rfl, rfl, rfl, rfl, kind_zero, rfl, fun _ => ⟨rfl, rfl⟩⟩

/-! ### The first operation after reset -/

/-- The header that `ENCODE` makes of cleared registers. -/
theorem encodeHeader_zero : encodeHeader 0 0 (synOf 0) (ackOf 0) (reqOf 0) = List.replicate 8 0x00 := by decide

/-- `ENCODE` after reset stores eight zero bytes and nothing else (R153). -/
theorem exec_encode_reset :
    ∃ m, exec .encode State.reset = .next { State.reset with buf := m }
      ∧ ∀ a, Memory.read m a = if a < 8 then some 0x00 else none := by
  obtain ⟨m, encodes, stored⟩ := encodeStoresHeader State.reset rfl
  refine ⟨m, encodes, fun a => ?_⟩
  have header : Memory.read m a = if a < 8 then (List.replicate 8 (0x00 : Byte))[a]? else none :=
    encodeHeader_zero ▸ stored a
  rw [header]
  split
  · next below => exact List.getElem?_replicate_of_lt below
  · rfl

/-- Settles O9: the block is idle after reset, so every operation completes; `LEN = 0` is too short to read. -/
theorem firstOperationAfterReset : Obligations.FirstOperationAfterReset := by
  refine ⟨rfl, rfl, fun i _ => ?completes, exec_encode_reset, fun i reading => ?tooShort⟩
  case completes =>
    obtain ⟨t, next, -⟩ := everyOperationCompletes i State.reset rfl
    exact ⟨t, next⟩
  case tooShort =>
    exact (lengthChecksChangeOnlyCode i State.reset reading rfl).2 (by decide)

end Sys2Proof.Machine
end
